-- ==== Sys2Proof/Word.lean ====
section
/-! DEFINITION. The word types of the block: 256-bit values, 32-bit bus words, bytes, register numbers, points. -/

namespace Sys2Proof

/-- A 256-bit value (R8, R11): bit 0 is the least significant, every value is unsigned. -/
abbrev Word := BitVec 256

/-- A 32-bit bus word; a command is one such word (R50, R80). -/
abbrev BusWord := BitVec 32

/-- A byte lane of the bus (R53). -/
abbrev Byte := BitVec 8

/-- A register number, 0 to 15 (R20, R82). -/
abbrev Reg := Fin 16

/-- The sixteen data registers `R0` to `R15` (R20). -/
abbrev Regs := Vector Word 16

/-- A byte offset inside the 4096-byte register window (R38, R50). -/
abbrev Offset := BitVec 12

/-- The contents of a point pair: x and y (R13, R22). -/
structure Point where
  x : Word
  y : Word
deriving DecidableEq, Repr

end Sys2Proof
end

