-- ==== Sys2Proof/Config.lean ====
section
/-! DEFINITION. What the spec leaves to the platform or leaves unspecified: uninterpreted constants, no one of
which has a value that a proof can see. -/

namespace Sys2Proof.Config

/-- `ID_VALUE`, the parameter of R10 that the ID register reads as (R26). Log 6. -/
opaque idValue : BusWord

/-- `BASE / 4096`: the platform chooses `BASE`, a multiple of 4096 (R10). Log 6. -/
opaque basePage : Nat

/-- `BASE`, the bus address of byte offset 0 (R10). -/
def base : Nat := 4096 * basePage

/-- `BUS_ERROR_SIGNAL` (R10, R52): how the bus reports an access error, left as an uninterpreted tag. Log 6. -/
opaque busErrorSignal : Nat

/-- The unspecified word a register-window read returns while BUSY (R251), a free draw. It may depend on the draw,
the offset, the command in flight and the registers, so that nothing follows from two reads that differ in one of
them. Log 7. -/
opaque busyWindowRead : (draw : Nat) → (off : Offset) → (cmd : BusWord) → (regs : Regs) → BusWord

/-- What the reference inverter gives for zero: the spec says it is undefined (R106, U1, N9). Every command that
would need it raises DIV_BY_ZERO instead (R117, R118), and R142 says point addition never does. Log 8. -/
opaque inverseOfZero : Word

end Sys2Proof.Config
end

