-- ==== Sys2Proof/Syntax.lean ====
section
/-! DEFINITION. The ECC256 command set, version 1 (R2, R85): one constructor per row of the opcode map. -/

namespace Sys2Proof

/-- A command (R85). Operand order is rd, ra, rb, unused fields left out (R89). A field that names a point pair is
the even register number of the pair (R22, R82); that it is even is checked in `WellFormed`. -/
inductive Instr where
  | nop
  | mov    (rd ra : Reg)
  | ldi    (rd : Reg) (imm16 : BitVec 16)
  | ldc    (rd : Reg) (imm16 : BitVec 16)
  | fred   (rd ra : Reg)
  | fchk   (rd ra : Reg)
  | fadd   (rd ra rb : Reg)
  | fsub   (rd ra rb : Reg)
  | fneg   (rd ra : Reg)
  | fmul   (rd ra rb : Reg)
  | fmuls  (rd ra rb : Reg)
  | finv   (rd ra : Reg)
  | fdiv   (rd ra rb : Reg)
  | fisz   (ra : Reg)
  | fcmp   (ra rb : Reg)
  | pchk   (rd ra : Reg)
  | padd   (rd ra rb : Reg)
  | pdbl   (rd ra : Reg)
  | pneg   (rd ra : Reg)
  | pmul   (rd ra rb : Reg)
  | pisinf (ra : Reg)
  | pcmp   (ra rb : Reg)
  | sinv   (rd ra : Reg)
deriving DecidableEq, Repr

/-- The pseudo-instructions of the assembly (R89). `d` and `a` of LDG, LDINF and PMOV are point pairs. -/
inductive Pseudo where
  | clr   (rd : Reg)
  | fsqr  (rd ra : Reg)
  | ldg   (pd : Reg)
  | ldinf (pd : Reg)
  | pmov  (pd pa : Reg)
deriving DecidableEq, Repr

/-- Why a command word is ILLEGAL (R87): the five causes the rule names. `truncated` is for the byte-level reader
only, which may be given fewer than the four bytes of a word; no command word has it. -/
inductive Illegal where
  | opcode          -- unassigned or reserved opcode
  | reservedField   -- a nonzero reserved field
  | unusedField     -- a nonzero unused operand field
  | oddPair         -- an odd number in a point field
  | constIndex      -- an LDC index above 6
  | truncated       -- fewer than four bytes
deriving DecidableEq, Repr

end Sys2Proof
end

