-- ==== Sys2Proof/WellFormed.lean ====
section
/-! DEFINITION. Which instruction terms stand for a legal command word: every point field is even (R82) and an LDC
index is at most 6 (R84). Register numbers and LDI's immediate need no check. -/

namespace Sys2Proof

/-- A register number that names a point pair is even (R22, R82). -/
def Reg.isPair (r : Reg) : Bool := r.val % 2 == 0

/-- The legality of an instruction term (R84, R86). -/
def Instr.wellFormed : Instr → Bool
  | .nop => true
  | .mov _ _ => true
  | .ldi _ _ => true
  | .ldc _ imm16 => decide (imm16.toNat ≤ 6)
  | .fred _ _ => true
  | .fchk _ _ => true
  | .fadd _ _ _ => true
  | .fsub _ _ _ => true
  | .fneg _ _ => true
  | .fmul _ _ _ => true
  | .fmuls _ _ _ => true
  | .finv _ _ => true
  | .fdiv _ _ _ => true
  | .fisz _ => true
  | .fcmp _ _ => true
  | .pchk rd ra => Reg.isPair rd && Reg.isPair ra
  | .padd rd ra rb => Reg.isPair rd && Reg.isPair ra && Reg.isPair rb
  | .pdbl rd ra => Reg.isPair rd && Reg.isPair ra
  | .pneg rd ra => Reg.isPair rd && Reg.isPair ra
  | .pmul rd ra _ => Reg.isPair rd && Reg.isPair ra
  | .pisinf ra => Reg.isPair ra
  | .pcmp ra rb => Reg.isPair ra && Reg.isPair rb
  | .sinv _ _ => true

end Sys2Proof
end

