-- ==== Sys2Proof/Decode.lean ====
section
/-! DEFINITION. The decoder of R95, total on every 32-bit word and on any bytes, rejecting by name; the encoder,
from the same formats (R81, R83) and opcode map (R85); the match and mask rows of R86; the assembly of R89. -/

namespace Sys2Proof

/-! ### Fields of a command word (R81, R83) -/

def opField (w : BusWord) : BitVec 8 := w.extractLsb' 24 8
def rdField (w : BusWord) : Reg := (w.extractLsb' 20 4).toFin
def raField (w : BusWord) : Reg := (w.extractLsb' 16 4).toFin
def rbField (w : BusWord) : Reg := (w.extractLsb' 12 4).toFin
/-- Bits 11:0, reserved in format R. -/
def zeroField (w : BusWord) : BitVec 12 := w.extractLsb' 0 12
def imm16Field (w : BusWord) : BitVec 16 := w.extractLsb' 0 16

/-! ### The opcode map (R85) -/

/-- What an operand field of format R holds: "0", "reg" or "pair". -/
inductive FieldUse where
  | zero | reg | pair
deriving DecidableEq, Repr

/-- A row of format R: the opcode, the use of rd, ra and rb, and the command it stands for. -/
structure RowR where
  opcode : BitVec 8
  rd : FieldUse
  ra : FieldUse
  rb : FieldUse
  make : Reg → Reg → Reg → Instr

/-- The format R rows of R85. -/
def opcodeMap : List RowR :=
  [ ⟨0x00#8, .zero, .zero, .zero, fun _ _ _ => .nop⟩,
    ⟨0x01#8, .reg,  .reg,  .zero, fun d a _ => .mov d a⟩,
    ⟨0x10#8, .reg,  .reg,  .zero, fun d a _ => .fred d a⟩,
    ⟨0x11#8, .reg,  .reg,  .zero, fun d a _ => .fchk d a⟩,
    ⟨0x12#8, .reg,  .reg,  .reg,  fun d a b => .fadd d a b⟩,
    ⟨0x13#8, .reg,  .reg,  .reg,  fun d a b => .fsub d a b⟩,
    ⟨0x14#8, .reg,  .reg,  .zero, fun d a _ => .fneg d a⟩,
    ⟨0x15#8, .reg,  .reg,  .reg,  fun d a b => .fmul d a b⟩,
    ⟨0x16#8, .reg,  .reg,  .reg,  fun d a b => .fmuls d a b⟩,
    ⟨0x17#8, .reg,  .reg,  .zero, fun d a _ => .finv d a⟩,
    ⟨0x18#8, .reg,  .reg,  .reg,  fun d a b => .fdiv d a b⟩,
    ⟨0x19#8, .zero, .reg,  .zero, fun _ a _ => .fisz a⟩,
    ⟨0x1A#8, .zero, .reg,  .reg,  fun _ a b => .fcmp a b⟩,
    ⟨0x20#8, .pair, .pair, .zero, fun d a _ => .pchk d a⟩,
    ⟨0x21#8, .pair, .pair, .pair, fun d a b => .padd d a b⟩,
    ⟨0x22#8, .pair, .pair, .zero, fun d a _ => .pdbl d a⟩,
    ⟨0x23#8, .pair, .pair, .zero, fun d a _ => .pneg d a⟩,
    ⟨0x24#8, .pair, .pair, .reg,  fun d a b => .pmul d a b⟩,
    ⟨0x25#8, .zero, .pair, .zero, fun _ a _ => .pisinf a⟩,
    ⟨0x26#8, .zero, .pair, .pair, fun _ a b => .pcmp a b⟩,
    ⟨0x27#8, .reg,  .reg,  .zero, fun d a _ => .sinv d a⟩ ]

/-- What is wrong with an operand field of a given use, if anything (R82, R86, R95). -/
def FieldUse.check (u : FieldUse) (r : Reg) : Option Illegal :=
  match u with
  | .zero => if r = 0 then none else some .unusedField
  | .reg => none
  | .pair => if Reg.isPair r then none else some .oddPair

/-- LDI and LDC, the format I opcodes (R83, R95). -/
def decodeI (w : BusWord) : Except Illegal Instr :=
  if w.extractLsb' 16 4 ≠ 0#4 then .error .reservedField
  else if opField w = 0x02#8 then .ok (.ldi (rdField w) (imm16Field w))
  else if 6 < (imm16Field w).toNat then .error .constIndex
  else .ok (.ldc (rdField w) (imm16Field w))

/-- Format R (R81, R95): the opcode's row, then bits 11:0, then the fields rd, ra, rb. -/
def decodeR (w : BusWord) : Except Illegal Instr :=
  match opcodeMap.find? (fun row => row.opcode == opField w) with
  | none => .error .opcode
  | some row =>
    if zeroField w ≠ 0#12 then .error .reservedField
    else match row.rd.check (rdField w) with
      | some e => .error e
      | none => match row.ra.check (raField w) with
        | some e => .error e
        | none => match row.rb.check (rbField w) with
          | some e => .error e
          | none => .ok (row.make (rdField w) (raField w) (rbField w))

/-- The decoder of R95: every word is exactly one command or ILLEGAL, with the reason. -/
def decode (w : BusWord) : Except Illegal Instr :=
  if opField w = 0x02#8 ∨ opField w = 0x03#8 then decodeI w else decodeR w

/-! ### Byte lanes (R53) -/

/-- Byte lane `k` of a bus word carries bits `8k+7 : 8k` (R53). -/
def lane (w : BusWord) (k : Fin 4) : Byte := w.extractLsb' (8 * k.val) 8

/-- The four byte lanes, lowest bus address first. -/
def lanes (w : BusWord) : List Byte := [lane w 0, lane w 1, lane w 2, lane w 3]

/-- The bus word whose byte lanes 0 to 3 are the given bytes. -/
def ofLanes (b0 b1 b2 b3 : Byte) : BusWord := b3 ++ b2 ++ b1 ++ b0

/-- Decoding from bytes in bus order: one command and the bytes after it. -/
def decodeBytes : List Byte → Except Illegal (Instr × List Byte)
  | b0 :: b1 :: b2 :: b3 :: rest =>
    match decode (ofLanes b0 b1 b2 b3) with
    | .ok i => .ok (i, rest)
    | .error e => .error e
  | _ => .error .truncated

/-- The command word whose low `nbits` bits are `w`, numbered as the opcode table numbers them. -/
def tableWord (nbits w : Nat) : BusWord := BitVec.ofNat 32 (w % 2 ^ nbits)

/-- The instruction the decoder reads from an opcode-table word, laid out in the byte lanes of the bus. -/
def decodeTableWord (nbits w : Nat) : Option Instr :=
  if 32 < nbits then none
  else match decodeBytes (lanes (tableWord nbits w)) with
    | .ok (i, _) => some i
    | .error _ => none

/-! ### The encoder (R81, R83, R85) -/

/-- Format R: opcode, rd, ra, rb, twelve zero bits (R81). -/
def formatR (op : BitVec 8) (rd ra rb : Reg) : BusWord :=
  op ++ (BitVec.ofFin rd : BitVec 4) ++ (BitVec.ofFin ra : BitVec 4) ++ (BitVec.ofFin rb : BitVec 4) ++ 0#12

/-- Format I: opcode, rd, four zero bits, imm16 (R83). -/
def formatI (op : BitVec 8) (rd : Reg) (imm16 : BitVec 16) : BusWord :=
  op ++ (BitVec.ofFin rd : BitVec 4) ++ 0#4 ++ imm16

/-- The opcode of each command (R85). -/
def Instr.opcode : Instr → BitVec 8
  | .nop => 0x00#8
  | .mov _ _ => 0x01#8
  | .ldi _ _ => 0x02#8
  | .ldc _ _ => 0x03#8
  | .fred _ _ => 0x10#8
  | .fchk _ _ => 0x11#8
  | .fadd _ _ _ => 0x12#8
  | .fsub _ _ _ => 0x13#8
  | .fneg _ _ => 0x14#8
  | .fmul _ _ _ => 0x15#8
  | .fmuls _ _ _ => 0x16#8
  | .finv _ _ => 0x17#8
  | .fdiv _ _ _ => 0x18#8
  | .fisz _ => 0x19#8
  | .fcmp _ _ => 0x1A#8
  | .pchk _ _ => 0x20#8
  | .padd _ _ _ => 0x21#8
  | .pdbl _ _ => 0x22#8
  | .pneg _ _ => 0x23#8
  | .pmul _ _ _ => 0x24#8
  | .pisinf _ => 0x25#8
  | .pcmp _ _ => 0x26#8
  | .sinv _ _ => 0x27#8

/-- The command word of an instruction. -/
def encode (i : Instr) : BusWord :=
  match i with
  | .nop => formatR i.opcode 0 0 0
  | .mov rd ra => formatR i.opcode rd ra 0
  | .ldi rd imm16 => formatI i.opcode rd imm16
  | .ldc rd imm16 => formatI i.opcode rd imm16
  | .fred rd ra => formatR i.opcode rd ra 0
  | .fchk rd ra => formatR i.opcode rd ra 0
  | .fadd rd ra rb => formatR i.opcode rd ra rb
  | .fsub rd ra rb => formatR i.opcode rd ra rb
  | .fneg rd ra => formatR i.opcode rd ra 0
  | .fmul rd ra rb => formatR i.opcode rd ra rb
  | .fmuls rd ra rb => formatR i.opcode rd ra rb
  | .finv rd ra => formatR i.opcode rd ra 0
  | .fdiv rd ra rb => formatR i.opcode rd ra rb
  | .fisz ra => formatR i.opcode 0 ra 0
  | .fcmp ra rb => formatR i.opcode 0 ra rb
  | .pchk rd ra => formatR i.opcode rd ra 0
  | .padd rd ra rb => formatR i.opcode rd ra rb
  | .pdbl rd ra => formatR i.opcode rd ra 0
  | .pneg rd ra => formatR i.opcode rd ra 0
  | .pmul rd ra rb => formatR i.opcode rd ra rb
  | .pisinf ra => formatR i.opcode 0 ra 0
  | .pcmp ra rb => formatR i.opcode 0 ra rb
  | .sinv rd ra => formatR i.opcode rd ra 0

/-! ### Match and mask (R86, opcode_table.json) -/

/-- A row of opcode_table.json: a word selects the row when its bits under the mask are the pattern. -/
structure TableRow where
  pattern : BusWord
  mask : BusWord
deriving DecidableEq, Repr

/-- The rows of opcode_table.json, in its order. -/
def tableRows : List TableRow :=
  [ ⟨0x00000000#32, 0xFFFFFFFF#32⟩,   -- NOP
    ⟨0x01000000#32, 0xFF00FFFF#32⟩,   -- MOV
    ⟨0x02000000#32, 0xFF0F0000#32⟩,   -- LDI
    ⟨0x03000000#32, 0xFF0FFFF8#32⟩,   -- LDC
    ⟨0x10000000#32, 0xFF00FFFF#32⟩,   -- FRED
    ⟨0x11000000#32, 0xFF00FFFF#32⟩,   -- FCHK
    ⟨0x12000000#32, 0xFF000FFF#32⟩,   -- FADD
    ⟨0x13000000#32, 0xFF000FFF#32⟩,   -- FSUB
    ⟨0x14000000#32, 0xFF00FFFF#32⟩,   -- FNEG
    ⟨0x15000000#32, 0xFF000FFF#32⟩,   -- FMUL
    ⟨0x16000000#32, 0xFF000FFF#32⟩,   -- FMULS
    ⟨0x17000000#32, 0xFF00FFFF#32⟩,   -- FINV
    ⟨0x18000000#32, 0xFF000FFF#32⟩,   -- FDIV
    ⟨0x19000000#32, 0xFFF0FFFF#32⟩,   -- FISZ
    ⟨0x1A000000#32, 0xFFF00FFF#32⟩,   -- FCMP
    ⟨0x20000000#32, 0xFF11FFFF#32⟩,   -- PCHK
    ⟨0x21000000#32, 0xFF111FFF#32⟩,   -- PADD
    ⟨0x22000000#32, 0xFF11FFFF#32⟩,   -- PDBL
    ⟨0x23000000#32, 0xFF11FFFF#32⟩,   -- PNEG
    ⟨0x24000000#32, 0xFF110FFF#32⟩,   -- PMUL
    ⟨0x25000000#32, 0xFFF1FFFF#32⟩,   -- PISINF
    ⟨0x26000000#32, 0xFFF11FFF#32⟩,   -- PCMP
    ⟨0x27000000#32, 0xFF00FFFF#32⟩ ]  -- SINV

/-- The one row with a constraint beside match and mask: LDC's `w[2:0] <= 6` (R86). -/
def constraint (w : BusWord) : Bool := opField w != 0x03#8 || decide ((w.extractLsb' 0 3).toNat ≤ 6)

/-- A word selects a row of the opcode table (R86). -/
def TableRow.selects (row : TableRow) (w : BusWord) : Bool := (w &&& row.mask) == row.pattern && constraint w

/-! ### Assembly (R89) -/

/-- The expansions of the pseudo-instructions (R89); `LDC` index 5 is GX and 6 is GY. -/
def Pseudo.expand : Pseudo → List Instr
  | .clr rd => [.ldi rd 0#16]
  | .fsqr rd ra => [.fmul rd ra ra]
  | .ldg pd => [.ldc pd 5#16, .ldc (pd + 1) 6#16]
  | .ldinf pd => [.ldi pd 0#16, .ldi (pd + 1) 0#16]
  | .pmov pd pa => [.mov pd pa, .mov (pd + 1) (pa + 1)]

/-- A data register in assembly, `R0` to `R15`. -/
def asmReg (r : Reg) : String := "R" ++ toString r.val

/-- A point pair in assembly, `P0`, `P2`, …, `P14`. -/
def asmPair (r : Reg) : String := "P" ++ toString r.val

/-- An LDC operand: a constant name where there is one (R89). -/
def asmConst (imm16 : BitVec 16) : String :=
  match imm16.toNat with
  | 0 => "#ZERO"
  | 1 => "#ONE"
  | 2 => "#B"
  | 3 => "#P"
  | 4 => "#N"
  | 5 => "#GX"
  | 6 => "#GY"
  | k => "#" ++ toString k

/-- The assembly text of a command (R89). -/
def Instr.asm : Instr → String
  | .nop => "NOP"
  | .mov rd ra => "MOV " ++ asmReg rd ++ ", " ++ asmReg ra
  | .ldi rd imm16 => "LDI " ++ asmReg rd ++ ", #" ++ toString imm16.toNat
  | .ldc rd imm16 => "LDC " ++ asmReg rd ++ ", " ++ asmConst imm16
  | .fred rd ra => "FRED " ++ asmReg rd ++ ", " ++ asmReg ra
  | .fchk rd ra => "FCHK " ++ asmReg rd ++ ", " ++ asmReg ra
  | .fadd rd ra rb => "FADD " ++ asmReg rd ++ ", " ++ asmReg ra ++ ", " ++ asmReg rb
  | .fsub rd ra rb => "FSUB " ++ asmReg rd ++ ", " ++ asmReg ra ++ ", " ++ asmReg rb
  | .fneg rd ra => "FNEG " ++ asmReg rd ++ ", " ++ asmReg ra
  | .fmul rd ra rb => "FMUL " ++ asmReg rd ++ ", " ++ asmReg ra ++ ", " ++ asmReg rb
  | .fmuls rd ra rb => "FMULS " ++ asmReg rd ++ ", " ++ asmReg ra ++ ", " ++ asmReg rb
  | .finv rd ra => "FINV " ++ asmReg rd ++ ", " ++ asmReg ra
  | .fdiv rd ra rb => "FDIV " ++ asmReg rd ++ ", " ++ asmReg ra ++ ", " ++ asmReg rb
  | .fisz ra => "FISZ " ++ asmReg ra
  | .fcmp ra rb => "FCMP " ++ asmReg ra ++ ", " ++ asmReg rb
  | .pchk rd ra => "PCHK " ++ asmPair rd ++ ", " ++ asmPair ra
  | .padd rd ra rb => "PADD " ++ asmPair rd ++ ", " ++ asmPair ra ++ ", " ++ asmPair rb
  | .pdbl rd ra => "PDBL " ++ asmPair rd ++ ", " ++ asmPair ra
  | .pneg rd ra => "PNEG " ++ asmPair rd ++ ", " ++ asmPair ra
  | .pmul rd ra rb => "PMUL " ++ asmPair rd ++ ", " ++ asmPair ra ++ ", " ++ asmReg rb
  | .pisinf ra => "PISINF " ++ asmPair ra
  | .pcmp ra rb => "PCMP " ++ asmPair ra ++ ", " ++ asmPair rb
  | .sinv rd ra => "SINV " ++ asmReg rd ++ ", " ++ asmReg ra

end Sys2Proof
end

