-- ==== Sys2Proof/Machine/State.lean ====
section
/-! DEFINITION. The state of the block (10_state.md R20 to R39), the events that change it (R61), its reset (R240). -/

namespace Sys2Proof.Machine

/-- FLAGS (R25, R33): the results of the test and validate commands. -/
structure Flags where
  z : Bool      -- bit 0, Z: the tested value is zero, or the tested point is INF
  eq : Bool     -- bit 1, EQ: the two operands are equal
  lt : Bool     -- bit 2, LT: the first operand is less than the second
  none : Bool   -- bit 3, NONE: a check failed and no value was produced
deriving DecidableEq, Repr

/-- STATUS (R29, R30). -/
structure Status where
  busy : Bool   -- bit 0, read-only: a command is in flight
  done : Bool   -- bit 1, W1C: the most recent accepted command has completed
  err : Bool    -- bit 2, W1C, sticky: a command completed with an error
  ovr : Bool    -- bit 3, W1C, sticky: a write was dropped during BUSY
deriving DecidableEq, Repr

/-- The command in flight (R37, R90): PENDING, the accepted word, and SNAP, the register values at acceptance.
Loop counters and accumulators of the engine are not architectural and are not held (R24, R35). Log 11. -/
structure InFlight where
  word : BusWord
  snap : Regs
deriving DecidableEq, Repr

/-- The outcomes of a command (R201). -/
inductive OutcomeCode where
  | ok             -- 0x00: completed normally
  | illegal        -- 0x01: the command word matches no opcode row
  | noncanonical   -- 0x02: a field operand is at least p
  | notOnCurve     -- 0x03: a point operand fails Valid
  | divByZero      -- 0x04: no inverse exists
deriving DecidableEq, Repr

/-- What an aligned 32-bit access reaches (R51, R59). -/
inductive Target where
  | id | ctrl | status | cmd | errcode | flags
  | window (i : Reg) (j : Fin 8)   -- word j of R[i] (R54)
  | reserved
deriving DecidableEq, Repr

/-- A host bus transaction (R50): `size` is the access width in bytes, of which only 4 is legal (R52). `data` is the
word written; a write of another width is a bus error whatever it carries. -/
inductive Access where
  | read (off : Offset) (size : Nat)
  | write (off : Offset) (size : Nat) (data : BusWord)
deriving DecidableEq, Repr

/-- What the bus answers to a host transaction (R50, R52). The model's own record; no rule of the block reads it. Log 9. -/
inductive PortResponse where
  | idle                    -- no transaction yet
  | data (w : BusWord)      -- the word a read returned
  | ack                     -- a write completed normally on the bus (R250: also a dropped one)
  | error (signal : Nat)    -- BUS_ERROR_SIGNAL (R52, R206)
deriving DecidableEq, Repr

/-- The events of R61. Log 1 and log 10. -/
inductive Event where
  | hardReset                                    -- the reset input is asserted (R240)
  | host (a : Access)                            -- one host transaction (R50)
  | complete                                     -- the engine's step (R93)
  | coincide (a : Access) (hostFirst : Bool)     -- both in the same clock cycle (R208)
deriving DecidableEq, Repr

/-- Everything the block holds, and beside it the schedule of events to come, the last bus response and the count of
free values drawn, which are the model's own. ID and the constant ROM are constants (R26, R27); `irq` is computed
(R36). There is no program counter and no memory (R24, R38). -/
structure State where
  regs : Regs                  -- R0 to R15 (R20)
  flags : Flags                -- FLAGS (R25, R33)
  ie : Bool                    -- CTRL.IE (R28)
  status : Status              -- STATUS (R29)
  errcode : BitVec 8           -- ERRCODE (R32)
  cmd : BusWord                -- CMD readback (R31)
  pending : Option InFlight    -- PENDING and SNAP, none when nothing is in flight (R37)
  events : List Event          -- the schedule, next event first (R61; log 1)
  port : PortResponse          -- the response to the latest host transaction (R50; log 9)
  draws : Nat                  -- free values drawn so far (R251; log 7)
deriving DecidableEq, Repr

/-- Why the machine stops with a fault. It never does: an error is an outcome of a command (R200) and a bus error is
an answer of the bus to one access (R206), so there is no constructor, and no claim of a stop can be made. Safe. -/
inductive Fault where
deriving DecidableEq, Repr

/-- Why an instruction has no meaning. -/
inductive Refusal where
  /-- An arm of exec that has no meaning yet raises it. Safe: the machine stops. No arm of this model raises it. -/
  | notModelled (mnemonic : String)
deriving DecidableEq, Repr

/-- FLAGS after reset (R240). -/
def Flags.clear : Flags := ⟨false, false, false, false⟩

/-- STATUS after reset (R240). -/
def Status.clear : Status := ⟨false, false, false, false⟩

/-- The block right after reset (R240): everything zero, no command in flight. The three fields of the model's own are
empty: no event scheduled, no bus response yet, no free value drawn (log 1, 9, 7). -/
def State.reset : State where
  regs := Vector.replicate 16 0#256
  flags := Flags.clear
  ie := false
  status := Status.clear
  errcode := 0x00#8
  cmd := 0#32
  pending := none
  events := []
  port := .idle
  draws := 0

end Sys2Proof.Machine
end

