-- ==== Sys2Proof/Machine/Flags.lean ====
section
/-! DEFINITION. Every flag computation of the spec (R25, R111, R119, R120, R150, R151, R157) and the words that FLAGS,
STATUS and CTRL read as (R28, R29, R33). -/

namespace Sys2Proof.Machine

/-- Z of FISZ (R119): the raw value is zero. -/
def isZero (v : Word) : Bool := decide (v = 0#256)

/-- Z of PISINF (R151): both raw coordinates are zero. -/
def isInf (q : Point) : Bool := decide (q.x = 0#256) && decide (q.y = 0#256)

/-- LT of PCMP (R157): lexicographic, x first, unsigned. -/
def pointLt (p q : Point) : Bool := decide (p.x < q.x) || (decide (p.x = q.x) && decide (p.y < q.y))

/-- Write Z and no other flag (R25). -/
def Flags.setZ (f : Flags) (b : Bool) : Flags := { f with z := b }

/-- Write EQ and LT and no other flag (R25). -/
def Flags.setCmp (f : Flags) (e l : Bool) : Flags := { f with eq := e, lt := l }

/-- Write NONE and no other flag (R25). -/
def Flags.setNone (f : Flags) (b : Bool) : Flags := { f with none := b }

/-- One bit as a bus word. -/
def bit (b : Bool) (k : Nat) : BusWord := if b then 1#32 <<< k else 0#32

/-- FLAGS as read (R33): bits 3:0 are NONE, LT, EQ, Z; bits 31:4 read 0. -/
def Flags.word (f : Flags) : BusWord := bit f.z 0 ||| bit f.eq 1 ||| bit f.lt 2 ||| bit f.none 3

/-- STATUS as read (R29): bits 3:0 are OVR, ERR, DONE, BUSY; bits 31:4 read 0. -/
def Status.word (t : Status) : BusWord := bit t.busy 0 ||| bit t.done 1 ||| bit t.err 2 ||| bit t.ovr 3

/-- CTRL as read (R28): bit 0 is IE; SRST and bits 31:2 read 0. -/
def ctrlWord (ie : Bool) : BusWord := bit ie 0

/-- A host write of STATUS (R29): DONE, ERR and OVR are cleared where 1 is written; BUSY and the reserved bits ignore
the write. -/
def Status.writeOneToClear (t : Status) (v : BusWord) : Status :=
  { t with done := t.done && !v.getLsbD 1, err := t.err && !v.getLsbD 2, ovr := t.ovr && !v.getLsbD 3 }

end Sys2Proof.Machine
end

