-- ==== Sys2Proof/Machine/Ops.lean ====
section
/-! DEFINITION. The named operations over the registers, the command in flight and the register window: acceptance
(R90), completion (R93), raising an error (R203), resets (R240, R241), host transactions (R50 to R57, R250, R251). -/

namespace Sys2Proof.Machine

/-- What one step or one command answers. -/
abbrev Result := Host.Outcome State Fault Refusal

/-! ### Data registers (R13, R20, R22) -/

def getReg (v : Regs) (r : Reg) : Word := v[r.val]'r.isLt
def setReg (v : Regs) (r : Reg) (x : Word) : Regs := v.set r.val x r.isLt

/-- `PT(r)` for an even r (R13, R22): x in `R[r]`, y in `R[r+1]`. -/
def getPair (v : Regs) (r : Reg) : Point := ⟨getReg v r, getReg v (r + 1)⟩
def setPair (v : Regs) (r : Reg) (q : Point) : Regs := setReg (setReg v r q.x) (r + 1) q.y

/-! ### Completion of a command (R93), error or not -/

/-- The code of an outcome, as ERRCODE bits 7:0 hold it (R201). -/
def OutcomeCode.code : OutcomeCode → BitVec 8
  | .ok => 0x00#8
  | .illegal => 0x01#8
  | .noncanonical => 0x02#8
  | .notOnCurve => 0x03#8
  | .divByZero => 0x04#8

/-- Completion with any outcome (R93), after the writes: ERRCODE takes the code, ERR is set by an error and kept
otherwise, BUSY falls, DONE rises, nothing is in flight. -/
def State.retire (s : State) (o : OutcomeCode) : State :=
  { s with
    errcode := o.code
    status := { s.status with busy := false, done := true, err := s.status.err || o != .ok }
    pending := none }

/-- Completion with outcome OK and its register and flag writes, in one indivisible step (R93, R94). -/
def State.completeOk (s : State) (regs : Regs) (flags : Flags) : State :=
  { s with regs := regs, flags := flags }.retire .ok

/-- `raise Error(code)` (R203): no register and no flag is written. -/
def State.fail (s : State) (o : OutcomeCode) : State := s.retire o

/-- A command that raises an error. -/
def raise (o : OutcomeCode) (s : State) : Result := .next (s.fail o)

/-- A command that writes nothing (NOP, R180). -/
def writeNothing (s : State) : Result := .next (s.completeOk s.regs s.flags)

/-- A command that writes `R[rd]` (R94). -/
def writeReg (rd : Reg) (v : Word) (s : State) : Result := .next (s.completeOk (setReg s.regs rd v) s.flags)

/-- A command that writes `PT(rd)` (R94). -/
def writePair (rd : Reg) (q : Point) (s : State) : Result := .next (s.completeOk (setPair s.regs rd q) s.flags)

/-- A command that writes flags only (R94). -/
def writeFlags (f : Flags) (s : State) : Result := .next (s.completeOk s.regs f)

/-- A check that passed (R111): `R[rd]` is written and NONE cleared. -/
def writeRegPassed (rd : Reg) (v : Word) (s : State) : Result :=
  .next (s.completeOk (setReg s.regs rd v) (s.flags.setNone false))

/-- A point check that passed (R150): `PT(rd)` is written and NONE cleared. -/
def writePairPassed (rd : Reg) (q : Point) (s : State) : Result :=
  .next (s.completeOk (setPair s.regs rd q) (s.flags.setNone false))

/-! ### Acceptance and reset -/

/-- Acceptance of a command word (R90): CMD and PENDING take it, BUSY rises, DONE falls, the registers are captured. -/
def State.accept (s : State) (w : BusWord) : State :=
  { s with cmd := w, pending := some ⟨w, s.regs⟩, status := { s.status with busy := true, done := false } }

/-- Reset of the block (R240, R242), hard or soft. The schedule, the last bus response and the draw count are no state
of the block and go on (log 9, 17). -/
def State.resetBlock (s : State) : State :=
  { State.reset with events := s.events, port := s.port, draws := s.draws }

/-- The interrupt output, at all times (R36). -/
def State.irq (s : State) : Bool := s.ie && s.status.done

/-! ### The register window (R51 to R57) -/

/-- Address decode of an aligned 32-bit access (R51, R54, R59). -/
def target (off : Offset) : Target :=
  let a := off.toNat
  if a = 0x000 then .id
  else if a = 0x004 then .ctrl
  else if a = 0x008 then .status
  else if a = 0x00C then .cmd
  else if a = 0x010 then .errcode
  else if a = 0x014 then .flags
  else if 0x100 ≤ a ∧ a ≤ 0x2FC then .window (Fin.ofNat 16 ((a - 0x100) / 32)) (Fin.ofNat 8 ((a - 0x100) / 4))
  else .reserved

/-- The byte offset of word j of `R[i]` (R54). -/
def windowOffset (i : Reg) (j : Fin 8) : Offset := BitVec.ofNat 12 (0x100 + 32 * i.val + 4 * j.val)

/-- An access of the only legal kind: 32 bits wide, aligned (R52). -/
def legalAccess (off : Offset) (size : Nat) : Bool := size == 4 && off.toNat % 4 == 0

/-- Bits 32j+31 : 32j of a 256-bit value (R54). -/
def wordOf (v : Word) (j : Fin 8) : BusWord := v.extractLsb' (32 * j.val) 32

/-- A 256-bit value with bits 32j+31 : 32j replaced (R55). -/
def replaceWord (v : Word) (j : Fin 8) (w : BusWord) : Word :=
  (v &&& ~~~(0xFFFFFFFF#256 <<< (32 * j.val))) ||| (w.setWidth 256 <<< (32 * j.val))

/-- Does a read of this target take a free value: a window read while BUSY (R251). -/
def drawsFree (s : State) : Target → Bool
  | .window _ _ => s.status.busy
  | _ => false

/-- The word a legal read returns (R26, R28 to R34, R54, R251). -/
def readTarget (s : State) (off : Offset) : Target → BusWord
  | .id => Config.idValue
  | .ctrl => ctrlWord s.ie
  | .status => s.status.word
  | .cmd => s.cmd
  | .errcode => s.errcode.setWidth 32
  | .flags => s.flags.word
  | .window i j => if s.status.busy then Config.busyWindowRead s.draws off s.cmd s.regs else wordOf (getReg s.regs i) j
  | .reserved => 0#32

/-- A dropped write (R250): OVR is set and nothing else happens. -/
def State.dropWrite (s : State) : State := { s with status := { s.status with ovr := true } }

/-- A CTRL write (R28, R241): SRST resets the block whatever bit 0 is, else IE takes bit 0. -/
def State.writeCtrl (s : State) (v : BusWord) : State :=
  if v.getLsbD 1 then s.resetBlock else { s with ie := v.getLsbD 0 }

/-- A STATUS write (R29). -/
def State.writeStatus (s : State) (v : BusWord) : State := { s with status := s.status.writeOneToClear v }

/-- A CMD write (R31): accepted while idle, dropped while BUSY. -/
def State.writeCmd (s : State) (w : BusWord) : State := if s.status.busy then s.dropWrite else s.accept w

/-- A register-window write (R55): dropped while BUSY. -/
def State.writeWindow (s : State) (i : Reg) (j : Fin 8) (w : BusWord) : State :=
  if s.status.busy then s.dropWrite
  else { s with regs := setReg s.regs i (replaceWord (getReg s.regs i) j w) }

/-- The effect of a legal write (R28 to R34, R55, R57, R250). -/
def State.writeTarget (s : State) (w : BusWord) : Target → State
  | .ctrl => s.writeCtrl w
  | .status => s.writeStatus w
  | .cmd => s.writeCmd w
  | .window i j => s.writeWindow i j w
  | .id => s
  | .errcode => s
  | .flags => s
  | .reserved => s

/-- One host transaction (R50, R52): a bus error changes no state of the block. -/
def State.transact (s : State) : Access → State
  | .read off size =>
    if legalAccess off size then
      { s with
        port := .data (readTarget s off (target off))
        draws := if drawsFree s (target off) then s.draws + 1 else s.draws }
    else { s with port := .error Config.busErrorSignal }
  | .write off size w =>
    if legalAccess off size then { s.writeTarget w (target off) with port := .ack }
    else { s with port := .error Config.busErrorSignal }

/-! ### The bus address space of the window (R38, R50, R53) -/

/-- The offset of a bus address, for an address in the window (R50). -/
def offsetOf (addr : Nat) : Option Offset :=
  if Config.base ≤ addr ∧ addr < Config.base + 4096 then some (BitVec.ofNat 12 (addr - Config.base)) else none

/-- The word-aligned offset that a byte's offset lies in. -/
def wordOffset (off : Offset) : Offset := BitVec.ofNat 12 (off.toNat / 4 * 4)

/-- The byte at a bus address of the window: its lane of the word that a read returns (R53). -/
def State.busByte (s : State) (addr : Nat) : Option Byte :=
  (offsetOf addr).map fun off =>
    lane (readTarget s (wordOffset off) (target (wordOffset off))) (Fin.ofNat 4 off.toNat)

end Sys2Proof.Machine
end

