-- ==== Sys2Proof/Machine/Rom.lean ====
section
/-! DEFINITION. The constant ROM (10_state.md R27). The values of P and N are the ones R27 gives; R27 marks them as
general knowledge, checked against the source's vectors. -/

namespace Sys2Proof.Machine

/-- The field prime p (R27, index 3): 2^256 - 2^32 - 977. -/
def P : Word := 0xFFFFFFFFFFFFFFFFFFFFFFFFFFFFFFFFFFFFFFFFFFFFFFFFFFFFFFFEFFFFFC2F#256

/-- The group order n (R27, index 4). -/
def N : Word := 0xFFFFFFFFFFFFFFFFFFFFFFFFFFFFFFFEBAAEDCE6AF48A03BBFD25E8CD0364141#256

/-- x of the generator (R27, index 5). -/
def GX : Word := 0x79BE667EF9DCBBAC55A06295CE870B07029BFCDB2DCE28D959F2815B16F81798#256

/-- y of the generator (R27, index 6). -/
def GY : Word := 0x483ADA7726A3C4655DA4FBFC0E1108A8FD17B448A68554199C47D08FFB10D4B8#256

/-- The curve parameter B = 7 (R27, index 2; R8). -/
def B : Word := 7#256

/-- The generator G (R27). -/
def G : Point := ⟨GX, GY⟩

/-- The ROM by LDC index (R27): 0 ZERO, 1 ONE, 2 B, 3 P, 4 N, 5 GX, 6 GY; no constant above 6 (R84). -/
def rom (imm16 : BitVec 16) : Option Word :=
  match imm16.toNat with
  | 0 => some 0#256
  | 1 => some 1#256
  | 2 => some B
  | 3 => some P
  | 4 => some N
  | 5 => some GX
  | 6 => some GY
  | _ => none

end Sys2Proof.Machine
end

