-- ==== Sys2Proof/Machine/FieldArith.lean ====
section
/-! DEFINITION. The field primitives (40_field.md R100 to R106) and the scalar inverse (41_point.md R147), as the
reference algorithms the spec gives. -/

namespace Sys2Proof.Machine

/-- Canonical: a value below p (R17). -/
def canon (v : Word) : Bool := decide (v < P)

/-- Reduce to field (R100): `v - p` if `v >= p`, else `v`. -/
def fred (v : Word) : Word := if P ≤ v then v - P else v

/-- The adder (R101): the raw sum has up to 257 bits; p is subtracted when it carries or reaches p. -/
def fadd (a b : Word) : Word :=
  let s := a.toNat + b.toNat
  let carry := s.testBit 256
  let low := BitVec.ofNat 256 s
  if carry = true ∨ P ≤ low then low - P else low

/-- The subtractor (R102): p is added back exactly on a borrow. -/
def fsub (a b : Word) : Word :=
  let borrow := decide (a < b)
  let d := a - b
  if borrow then d + P else d

/-- Negation (R103): zero maps to zero, any other v to p - v. -/
def fneg (v : Word) : Word := if v = 0#256 then 0#256 else P - v

/-- The double-and-add loop that R104 and R145 share ("structurally identical"), most significant bit first: with
`i` bit positions left, double the accumulator and, if bit `i - 1` of the multiplier is set, add. -/
def ladder {α : Type} (dbl add : α → α) (m : Word) : Nat → α → α
  | 0, acc => acc
  | i + 1, acc => ladder dbl add m i (if m.getLsbD i then add (dbl acc) else dbl acc)

/-- The multiplier (R104): 256 iterations over the multiplier `m`, multiplicand `a`. -/
def fmul (a m : Word) : Word := ladder (fun acc => fadd acc acc) (fun acc => fadd acc a) m 256 0#256

/-- The 256 iterations with a record beside the accumulator: how many doublings and how many additions were performed
(R254). Log 2. -/
def ladderCounted {α : Type} (dbl add : α → α) (m : Word) (acc : α) : α × Nat × Nat :=
  ladder (fun c => (dbl c.1, c.2.1 + 1, c.2.2)) (fun c => (add c.1, c.2.1, c.2.2 + 1)) m 256 (acc, 0, 0)

/-- The extended Euclidean algorithm (R106, R147) on the remainders `r0`, `r1` and the coefficients `t0`, `t1` of
the inverted value, for at most the given number of divisions; it ends with the coefficient of the last nonzero
remainder. -/
def euclid : Nat → Nat → Nat → Int → Int → Int
  | 0, _, _, t0, _ => t0
  | fuel + 1, r0, r1, t0, t1 =>
    if r1 = 0 then t0 else euclid fuel r1 (r0 % r1) t1 (t0 - (r0 / r1 : Nat) * t1)

/-- The inverse of `a` modulo `m` for coprime `a < m` (R12's `inv_m`), by the extended Euclidean algorithm. Two
divisions at least halve the remainder, so 514 of them suffice for 256-bit values. Log 15. -/
def modInv (a m : Nat) : Nat := (euclid 514 m a 0 1 % (m : Int)).toNat

/-- The inverter (R106). For zero the spec leaves it undefined: a free value, which no command uses on valid operands
(R117, R118, R142). Log 8. -/
def finv (a : Word) : Word :=
  if a = 0#256 then Config.inverseOfZero else BitVec.ofNat 256 (modInv a.toNat P.toNat)

/-- The scalar inverse of `s` modulo n, where there is one (R147): `s` is reduced first; none when the gcd is not 1. -/
def sinv (s : Word) : Option Word :=
  let r := s.toNat % N.toNat
  if Nat.gcd r N.toNat = 1 then some (BitVec.ofNat 256 (modInv r N.toNat)) else none

end Sys2Proof.Machine
end

