-- ==== Sys2Proof/Machine/PointArith.lean ====
section
/-! DEFINITION. The point primitives (00_scope.md R15; 41_point.md R140 to R145) over the field primitives. -/

namespace Sys2Proof.Machine

/-- INF, the neutral element (R15, R22). -/
def INF : Point := ⟨0#256, 0#256⟩

/-- `Valid` (R15): canonical coordinates, and INF or a solution of y^2 = x^3 + 7 modulo p. -/
def valid (q : Point) : Bool :=
  canon q.x && canon q.y &&
    (decide (q = INF) ||
      decide (q.y.toNat * q.y.toNat % P.toNat = (q.x.toNat * q.x.toNat * q.x.toNat + B.toNat) % P.toNat))

/-- The slope of case 3 (R141): tangent when P = Q, chord otherwise. -/
def slope (p q : Point) : Word :=
  if p = q then fmul (fmul 3#256 (fmul p.x p.x)) (finv (fmul 2#256 p.y))
  else fmul (fsub q.y p.y) (finv (fsub q.x p.x))

/-- Case 4 of R141: the third point from the slope. -/
def chord (lam : Word) (p q : Point) : Point :=
  let xr := fsub (fsub (fmul lam lam) p.x) q.x
  let yr := fsub (fmul lam (fsub p.x xr)) p.y
  ⟨xr, yr⟩

/-- The point adder (R141), its cases in the source's order. -/
def padd (p q : Point) : Point :=
  if p = INF then q
  else if q = INF then p
  else if p.x = q.x ∧ p.y = fneg q.y then INF
  else chord (slope p q) p q

/-- Point negation (R144). -/
def pneg (q : Point) : Point := ⟨q.x, fneg q.y⟩

/-- The point scalar multiplier (R145): 256 iterations of doubling and conditional addition. -/
def pmul (q : Point) (s : Word) : Point := ladder (fun acc => padd acc acc) (fun acc => padd acc q) s 256 INF

end Sys2Proof.Machine
end

