-- ==== Sys2Proof/Machine/Operands.lean ====
section
/-! DEFINITION. Every operand form of the commands (R82, R84, R91): a register or a point pair of the snapshot, the
16-bit immediate, and the checks of R92. -/

namespace Sys2Proof.Machine

/-- The register values a command's pseudocode reads (R91): the snapshot taken at acceptance. With nothing in flight
no command runs; the current registers stand in, so that a meaning is total. Log 4. -/
def State.snapshot (s : State) : Regs :=
  match s.pending with
  | some f => f.snap
  | none => s.regs

/-- A register operand: any 256-bit value (R20, R23). -/
def State.opReg (s : State) (r : Reg) : Word := getReg s.snapshot r

/-- A point operand `PT(r)` (R22). -/
def State.opPair (s : State) (r : Reg) : Point := getPair s.snapshot r

/-- LDI's immediate, `zext_256(imm16)` (R84). -/
def zext256 (imm16 : BitVec 16) : Word := imm16.setWidth 256

/-- `canon(r)` (40_field.md section 2): the operand is a canonical field element. -/
def State.canonOp (s : State) (r : Reg) : Bool := canon (s.opReg r)

/-- `valid(r)` (R140): the operand pair is INF or on the curve, with canonical coordinates. -/
def State.validOp (s : State) (r : Reg) : Bool := valid (s.opPair r)

/-- A command whose point fields are not all even is ILLEGAL (R82, R87). Decoding never yields one; the meanings of
the point commands say it again, since they are given the fields as numbers. Log 5. -/
def withPairs (pairs : List Reg) (s : State) (body : State → Result) : Result :=
  if pairs.all Reg.isPair then body s else raise .illegal s

end Sys2Proof.Machine
end

