-- ==== Sys2Proof/Machine/Field.lean ====
section
/-! DEFINITION. The field commands (40_field.md R110 to R120). Each meaning is the completion (R93) of the command;
the checks stand in the order of R92. -/

namespace Sys2Proof.Machine

/-- FRED (R110). -/
def execFred (rd ra : Reg) (s : State) : Result := writeReg rd (fred (s.opReg ra)) s

/-- FCHK (R111): a value at or above p is an absent result, outcome OK. -/
def execFchk (rd ra : Reg) (s : State) : Result :=
  if s.canonOp ra then writeRegPassed rd (s.opReg ra) s else writeFlags (s.flags.setNone true) s

/-- FADD (R112). -/
def execFadd (rd ra rb : Reg) (s : State) : Result :=
  if s.canonOp ra && s.canonOp rb then writeReg rd (fadd (s.opReg ra) (s.opReg rb)) s else raise .noncanonical s

/-- FSUB (R113). -/
def execFsub (rd ra rb : Reg) (s : State) : Result :=
  if s.canonOp ra && s.canonOp rb then writeReg rd (fsub (s.opReg ra) (s.opReg rb)) s else raise .noncanonical s

/-- FNEG (R114). -/
def execFneg (rd ra : Reg) (s : State) : Result :=
  if s.canonOp ra then writeReg rd (fneg (s.opReg ra)) s else raise .noncanonical s

/-- FMUL (R115): ra is the multiplicand, rb the multiplier, both canonical. -/
def execFmul (rd ra rb : Reg) (s : State) : Result :=
  if s.canonOp ra && s.canonOp rb then writeReg rd (fmul (s.opReg ra) (s.opReg rb)) s else raise .noncanonical s

/-- FMULS (R116): rb is a scalar and is never checked. -/
def execFmuls (rd ra rb : Reg) (s : State) : Result :=
  if s.canonOp ra then writeReg rd (fmul (s.opReg ra) (s.opReg rb)) s else raise .noncanonical s

/-- FINV (R117): NONCANONICAL, then DIV_BY_ZERO. -/
def execFinv (rd ra : Reg) (s : State) : Result :=
  if s.canonOp ra then
    if s.opReg ra = 0#256 then raise .divByZero s else writeReg rd (finv (s.opReg ra)) s
  else raise .noncanonical s

/-- FDIV (R118): NONCANONICAL, then DIV_BY_ZERO. -/
def execFdiv (rd ra rb : Reg) (s : State) : Result :=
  if s.canonOp ra && s.canonOp rb then
    if s.opReg rb = 0#256 then raise .divByZero s
    else writeReg rd (fmul (s.opReg ra) (finv (s.opReg rb))) s
  else raise .noncanonical s

/-- FISZ (R119): Z on the raw value. -/
def execFisz (ra : Reg) (s : State) : Result := writeFlags (s.flags.setZ (isZero (s.opReg ra))) s

/-- FCMP (R120): EQ and LT on the raw values, unsigned. -/
def execFcmp (ra rb : Reg) (s : State) : Result :=
  writeFlags (s.flags.setCmp (decide (s.opReg ra = s.opReg rb)) (decide (s.opReg ra < s.opReg rb))) s

end Sys2Proof.Machine
end

