-- ==== Sys2Proof/Machine/PointCommands.lean ====
section
/-! DEFINITION. The point and scalar commands (41_point.md R150 to R157). Each meaning is the completion (R93) of the
command; the checks stand in the order of R92. -/

namespace Sys2Proof.Machine

/-- PCHK (R150): a pair that is not Valid is an absent result, outcome OK. -/
def execPchk (rd ra : Reg) (s : State) : Result :=
  withPairs [rd, ra] s fun s =>
    if s.validOp ra then writePairPassed rd (s.opPair ra) s else writeFlags (s.flags.setNone true) s

/-- PADD (R152). -/
def execPadd (rd ra rb : Reg) (s : State) : Result :=
  withPairs [rd, ra, rb] s fun s =>
    if s.validOp ra && s.validOp rb then writePair rd (padd (s.opPair ra) (s.opPair rb)) s else raise .notOnCurve s

/-- PDBL (R153): the P = Q case of addition. -/
def execPdbl (rd ra : Reg) (s : State) : Result :=
  withPairs [rd, ra] s fun s =>
    if s.validOp ra then writePair rd (padd (s.opPair ra) (s.opPair ra)) s else raise .notOnCurve s

/-- PNEG (R154). -/
def execPneg (rd ra : Reg) (s : State) : Result :=
  withPairs [rd, ra] s fun s =>
    if s.validOp ra then writePair rd (pneg (s.opPair ra)) s else raise .notOnCurve s

/-- PMUL (R155): rb is any register and is not reduced. -/
def execPmul (rd ra rb : Reg) (s : State) : Result :=
  withPairs [rd, ra] s fun s =>
    if s.validOp ra then writePair rd (pmul (s.opPair ra) (s.opReg rb)) s else raise .notOnCurve s

/-- PISINF (R151): Z on the raw pair. -/
def execPisinf (ra : Reg) (s : State) : Result :=
  withPairs [ra] s fun s => writeFlags (s.flags.setZ (isInf (s.opPair ra))) s

/-- PCMP (R157): EQ and LT on the raw pairs, lexicographic. -/
def execPcmp (ra rb : Reg) (s : State) : Result :=
  withPairs [ra, rb] s fun s =>
    writeFlags (s.flags.setCmp (decide (s.opPair ra = s.opPair rb)) (pointLt (s.opPair ra) (s.opPair rb))) s

/-- SINV (R156): DIV_BY_ZERO when the scalar has no inverse modulo n. -/
def execSinv (rd ra : Reg) (s : State) : Result :=
  match sinv (s.opReg ra) with
  | some t => writeReg rd t s
  | none => raise .divByZero s

end Sys2Proof.Machine
end

