-- ==== Sys2Proof/Machine/Transfer.lean ====
section
/-! DEFINITION. The register-transfer commands (42_transfer.md R180 to R183). Each meaning is the completion (R93) of
the command, in a state where it is in flight. -/

namespace Sys2Proof.Machine

/-- NOP (R180): no register or flag write; it completes like any command. -/
def execNop (s : State) : Result := writeNothing s

/-- MOV (R181): `R[rd] <- R[ra]`, raw. -/
def execMov (rd ra : Reg) (s : State) : Result := writeReg rd (s.opReg ra) s

/-- LDI (R182): `R[rd] <- zext_256(imm16)`. -/
def execLdi (rd : Reg) (imm16 : BitVec 16) (s : State) : Result := writeReg rd (zext256 imm16) s

/-- LDC (R183): `R[rd] <- CONST[imm16]`; an index above 6 is ILLEGAL (R87). -/
def execLdc (rd : Reg) (imm16 : BitVec 16) (s : State) : Result :=
  match rom imm16 with
  | some v => writeReg rd v s
  | none => raise .illegal s

end Sys2Proof.Machine
end

