-- ==== Sys2Proof/Machine/Dispatch.lean ====
section
/-! DEFINITION. One arm per command: the completion of the in-flight command (R93) by the meaning of its rule. -/

namespace Sys2Proof.Machine

def exec (i : Instr) (s : State) : Host.Outcome State Fault Refusal :=
  match i with
  | .nop => Sys2Proof.Machine.execNop s
  | .mov rd ra => Sys2Proof.Machine.execMov rd ra s
  | .ldi rd imm16 => Sys2Proof.Machine.execLdi rd imm16 s
  | .ldc rd imm16 => Sys2Proof.Machine.execLdc rd imm16 s
  | .fred rd ra => Sys2Proof.Machine.execFred rd ra s
  | .fchk rd ra => Sys2Proof.Machine.execFchk rd ra s
  | .fadd rd ra rb => Sys2Proof.Machine.execFadd rd ra rb s
  | .fsub rd ra rb => Sys2Proof.Machine.execFsub rd ra rb s
  | .fneg rd ra => Sys2Proof.Machine.execFneg rd ra s
  | .fmul rd ra rb => Sys2Proof.Machine.execFmul rd ra rb s
  | .fmuls rd ra rb => Sys2Proof.Machine.execFmuls rd ra rb s
  | .finv rd ra => Sys2Proof.Machine.execFinv rd ra s
  | .fdiv rd ra rb => Sys2Proof.Machine.execFdiv rd ra rb s
  | .fisz ra => Sys2Proof.Machine.execFisz ra s
  | .fcmp ra rb => Sys2Proof.Machine.execFcmp ra rb s
  | .pchk rd ra => Sys2Proof.Machine.execPchk rd ra s
  | .padd rd ra rb => Sys2Proof.Machine.execPadd rd ra rb s
  | .pdbl rd ra => Sys2Proof.Machine.execPdbl rd ra s
  | .pneg rd ra => Sys2Proof.Machine.execPneg rd ra s
  | .pmul rd ra rb => Sys2Proof.Machine.execPmul rd ra rb s
  | .pisinf ra => Sys2Proof.Machine.execPisinf ra s
  | .pcmp ra rb => Sys2Proof.Machine.execPcmp ra rb s
  | .sinv rd ra => Sys2Proof.Machine.execSinv rd ra s

end Sys2Proof.Machine
end

