-- ==== Sys2Proof/Machine/Engine.lean ====
section
/-! DEFINITION. One event (R61): the engine's completion, a host transaction, both in one clock cycle (R208), a
hardware reset. -/

namespace Sys2Proof.Machine

/-- The engine's step (R93): the in-flight word is decoded first (R92), an ILLEGAL word completes with ILLEGAL (R87),
any other with its command's meaning. An idle engine does nothing. -/
def engineStep (s : State) : Result :=
  match s.pending with
  | none => .next s
  | some f =>
    match decode f.word with
    | .ok i => exec i s
    | .error _ => raise .illegal s

/-- One host transaction as an event. -/
def hostStep (a : Access) (s : State) : Result := .next (s.transact a)

/-- One event after another within a clock cycle. -/
def andThen (r : Result) (k : State → Result) : Result :=
  match r with
  | .next s => k s
  | .fault e => .fault e
  | .refused e => .refused e

/-- The register a legal write goes to; none for a read or a bus error. -/
def Access.writes : Access → Option Target
  | .write off size _ => if legalAccess off size then some (target off) else none
  | .read _ _ => none

/-- In which order a completion and a host access in one clock cycle act (R208): the completion's settings of STATUS win
over a host write, so that write acts first; a soft reset wins and a CMD write comes after, so these act last. The
spec fixes no order for any other access; the schedule says which (log 10). -/
def actsFirst (a : Access) (hostFirst : Bool) : Bool :=
  match a.writes with
  | some .status => true
  | some .ctrl => false
  | some .cmd => false
  | _ => hostFirst

/-- A completion and a host access in the same clock cycle (R208). -/
def coincide (a : Access) (hostFirst : Bool) (s : State) : Result :=
  if actsFirst a hostFirst then andThen (hostStep a s) engineStep
  else andThen (engineStep s) (hostStep a)

/-- What one event does. -/
def runEvent (e : Event) (s : State) : Result :=
  match e with
  | .hardReset => .next s.resetBlock
  | .host a => hostStep a s
  | .complete => engineStep s
  | .coincide a hostFirst => coincide a hostFirst s

/-- One step (R61): the next event of the schedule. With none left no host acts any more, and the engine completes what
is in flight (R253); with nothing in flight nothing changes (R218). Log 3. -/
def nextEvent (s : State) : Result :=
  match s.events with
  | [] => engineStep s
  | e :: rest => runEvent e { s with events := rest }

/-- A command word where the next step runs it: accepted by the block (R90), its completion the next event. Log 18. -/
def State.loadCommand (s : State) (w : BusWord) : State :=
  let t := s.accept w
  { t with events := .complete :: t.events }

end Sys2Proof.Machine
end

