-- ==== Sys2Proof/Machine/Step.lean ====
section
/-! DEFINITION. The step, and where an instruction word is placed for it. -/

namespace Sys2Proof.Machine

/-- One event of the total order of R61. -/
def step (s : State) : Host.Outcome State Fault Refusal := nextEvent s

/-- `s` with the command word of an opcode-table row in flight and its completion the next event. -/
def State.withFetchWord (s : State) (nbits w : Nat) : State := s.loadCommand (tableWord nbits w)

end Sys2Proof.Machine
end

