-- ==== Sys2Proof/Safety.lean ====
section
/-! DEFINITION. What counts as a legal state of the block: the relations between its fields that the spec states. -/

namespace Sys2Proof.Machine

/-- The block's invariant. BUSY is 1 exactly while a command is in flight (R30). What is in flight is the word CMD reads
back (R31, R37), its snapshot is the register values still (R91), and DONE is 0 meanwhile (R30). ERRCODE holds one of
the codes 0x00 to 0x04 (R201). -/
def State.Inv (s : State) : Prop :=
  s.status.busy = s.pending.isSome ∧
  (s.pending = none ∨ s.pending = some ⟨s.cmd, s.regs⟩ ∧ s.status.done = false) ∧
  s.errcode.toNat ≤ 4

/-- A run of `k` steps from `s` that ends in a next state. -/
def Reaches : Nat → State → State → Prop
  | 0, s, t => t = s
  | k + 1, s, t => ∃ u, step s = .next u ∧ Reaches k u t

end Sys2Proof.Machine
end

