-- ==== Sys2Proof/Certificates/Slice0/Obligations.lean ====
section
/-! DEFINITION. The statements for the provers. Each docstring names the rules of spec/ the statement formalises. The
helper definitions of namespace `Sys2Proof.Stated` spell out the spec's terms beside the model's own. -/

namespace Sys2Proof.Stated

open Sys2Proof.Machine

/-- The field prime of R27, p = 2^256 - 2^32 - 977. -/
def p : Nat := 2 ^ 256 - 2 ^ 32 - 977

/-- The group order n of R27. -/
def n : Nat := 0xFFFFFFFFFFFFFFFFFFFFFFFFFFFFFFFEBAAEDCE6AF48A03BBFD25E8CD0364141

/-- The value of a register operand: register `r` of the snapshot (R91). -/
def val (s : State) (r : Reg) : Nat := (getReg s.snapshot r).toNat

/-- The value of a point operand: registers `r` and `r + 1` of the snapshot (R22, R91). -/
def pt (s : State) (r : Reg) : Point := ⟨getReg s.snapshot r, getReg s.snapshot (r + 1)⟩

/-- A register number that names a point pair (R22). -/
abbrev IsPair (r : Reg) : Prop := r.val % 2 = 0

/-- A 256-bit value from a number below 2^256. -/
def w256 (k : Nat) : Word := BitVec.ofNat 256 k

/-- `INF` (R15). -/
def inf : Point := ⟨0#256, 0#256⟩

/-- The curve equation on canonical coordinates, or INF: `Valid` (R15, R140). -/
def OnCurve (q : Point) : Prop :=
  q.x.toNat < p ∧ q.y.toNat < p ∧
    (q = inf ∨ q.y.toNat * q.y.toNat % p = (q.x.toNat * q.x.toNat * q.x.toNat + 7) % p)

/-- The state after a command that completes with outcome OK and these registers and flags (R93). -/
def okState (s : State) (regs : Regs) (flags : Flags) : State :=
  { s with
    regs := regs
    flags := flags
    errcode := 0x00#8
    status := { s.status with busy := false, done := true }
    pending := none }

/-- The state after a command that raises an error (R93, R203). -/
def errState (s : State) (code : BitVec 8) : State :=
  { s with
    errcode := code
    status := { s.status with busy := false, done := true, err := true }
    pending := none }

/-- The command word of format R (R81). -/
def wordR (op : BitVec 8) (rd ra rb : Reg) : BusWord :=
  BitVec.ofNat 32 (op.toNat * 2 ^ 24 + rd.val * 2 ^ 20 + ra.val * 2 ^ 16 + rb.val * 2 ^ 12)

/-- The command word of format I (R83). -/
def wordI (op : BitVec 8) (rd : Reg) (imm16 : BitVec 16) : BusWord :=
  BitVec.ofNat 32 (op.toNat * 2 ^ 24 + rd.val * 2 ^ 20 + imm16.toNat)

/-- The constant ROM (R27), indices 0 to 6. -/
def constants : List Word :=
  [ 0#256, 1#256, 7#256,
    0xFFFFFFFFFFFFFFFFFFFFFFFFFFFFFFFFFFFFFFFFFFFFFFFFFFFFFFFEFFFFFC2F#256,
    0xFFFFFFFFFFFFFFFFFFFFFFFFFFFFFFFEBAAEDCE6AF48A03BBFD25E8CD0364141#256,
    0x79BE667EF9DCBBAC55A06295CE870B07029BFCDB2DCE28D959F2815B16F81798#256,
    0x483ADA7726A3C4655DA4FBFC0E1108A8FD17B448A68554199C47D08FFB10D4B8#256 ]

/-- The group law of R141 as equations modulo p: the sum `r` of `a` and `b`, with the cases in R141's order. In case 3
`lam` is the quotient the rule names, given by the equation it solves. -/
def IsSum (a b r : Point) : Prop :=
  if a = inf then r = b
  else if b = inf then r = a
  else if a.x = b.x ∧ (a.y.toNat + b.y.toNat) % p = 0 then r = inf
  else
    r.x.toNat < p ∧ r.y.toNat < p ∧
    ∃ lam : Nat, lam < p ∧
      (if a = b then lam * (2 * a.y.toNat) % p = 3 * (a.x.toNat * a.x.toNat) % p
       else lam * (b.x.toNat + (p - a.x.toNat)) % p = (b.y.toNat + (p - a.y.toNat)) % p) ∧
      (r.x.toNat + a.x.toNat + b.x.toNat) % p = lam * lam % p ∧
      (r.y.toNat + a.y.toNat + lam * r.x.toNat) % p = lam * a.x.toNat % p

/-- The loop of R145 as a fold over the bit positions 255 down to 0. -/
def doubleAndAdd (q : Point) (k : Word) : Point :=
  (List.range 256).reverse.foldl
    (fun acc i => if k.getLsbD i then padd (padd acc acc) q else padd acc acc) inf

/-- The k-fold sum of R146: `q + q + ... + q`, INF for k = 0. -/
def nFold (q : Point) : Nat → Point
  | 0 => inf
  | k + 1 => padd (nFold q k) q

/-- The number of set bits of a 256-bit value. -/
def popcount (m : Word) : Nat := (List.range 256).countP (fun i => m.getLsbD i)

/-- The registers a command may write (R94): `R[rd]`, or the pair of rd. -/
def destinations : Instr → List Reg
  | .nop => []
  | .mov rd _ => [rd]
  | .ldi rd _ => [rd]
  | .ldc rd _ => [rd]
  | .fred rd _ => [rd]
  | .fchk rd _ => [rd]
  | .fadd rd _ _ => [rd]
  | .fsub rd _ _ => [rd]
  | .fneg rd _ => [rd]
  | .fmul rd _ _ => [rd]
  | .fmuls rd _ _ => [rd]
  | .finv rd _ => [rd]
  | .fdiv rd _ _ => [rd]
  | .fisz _ => []
  | .fcmp _ _ => []
  | .pchk rd _ => [rd, rd + 1]
  | .padd rd _ _ => [rd, rd + 1]
  | .pdbl rd _ => [rd, rd + 1]
  | .pneg rd _ => [rd, rd + 1]
  | .pmul rd _ _ => [rd, rd + 1]
  | .pisinf _ => []
  | .pcmp _ _ => []
  | .sinv rd _ => [rd]

/-- The commands that write Z (R25). -/
def writesZ : Instr → Bool
  | .fisz _ => true
  | .pisinf _ => true
  | _ => false

/-- The commands that write EQ and LT (R25). -/
def writesCmp : Instr → Bool
  | .fcmp _ _ => true
  | .pcmp _ _ => true
  | _ => false

/-- The commands that write NONE (R25). -/
def writesNone : Instr → Bool
  | .fchk _ _ => true
  | .pchk _ _ => true
  | _ => false

/-- The outcome codes a legal command can complete with (R201, R202). -/
def outcomes : Instr → List (BitVec 8)
  | .fadd _ _ _ => [0x00#8, 0x02#8]
  | .fsub _ _ _ => [0x00#8, 0x02#8]
  | .fneg _ _ => [0x00#8, 0x02#8]
  | .fmul _ _ _ => [0x00#8, 0x02#8]
  | .fmuls _ _ _ => [0x00#8, 0x02#8]
  | .finv _ _ => [0x00#8, 0x02#8, 0x04#8]
  | .fdiv _ _ _ => [0x00#8, 0x02#8, 0x04#8]
  | .padd _ _ _ => [0x00#8, 0x03#8]
  | .pdbl _ _ => [0x00#8, 0x03#8]
  | .pneg _ _ => [0x00#8, 0x03#8]
  | .pmul _ _ _ => [0x00#8, 0x03#8]
  | .sinv _ _ => [0x00#8, 0x04#8]
  | _ => [0x00#8]

/-- An event that can complete a command. -/
def isCompletion : Event → Bool
  | .complete => true
  | .coincide _ _ => true
  | _ => false

/-- The host access an event carries. -/
def accessOf : Event → Option Access
  | .host a => some a
  | .coincide a _ => some a
  | _ => none

/-- An event that resets the block: the reset input, or a 32-bit write to CTRL with bit 1 set (R240, R241). -/
def isReset (e : Event) : Prop :=
  e = .hardReset ∨ ∃ v : BusWord, accessOf e = some (.write 0x004#12 4 v) ∧ v.getLsbD 1 = true

/-- The step from `s` completes a command: one is in flight, and a completion is next, alone or in the clock cycle of a
host access, or no event is left (log 3). -/
def completesNext (s : State) : Prop :=
  s.pending ≠ none ∧ (s.events = [] ∨ ∃ e, s.events.head? = some e ∧ isCompletion e = true)

/-- The step from `s` resets the block. -/
def resetsNext (s : State) : Prop := ∃ e, s.events.head? = some e ∧ isReset e

/-- The host access of the step from `s`, if it has one. -/
def accessNext (s : State) : Option Access := s.events.head?.bind accessOf

end Sys2Proof.Stated

open Sys2Proof Sys2Proof.Machine Sys2Proof.Stated

/-! ### Encoding -/

/-- R81, R83, R84, R85: every legal command, with every operand at every value its encoding admits, is what its word
decodes to. -/
def Obligations.DecodeOfEncodeIsTheCommand : Prop :=
  ∀ i : Instr, i.wellFormed = true → decode (encode i) = .ok i

/-- R87: every word is ILLEGAL or exactly one command, and no other word encodes that command. -/
def Obligations.LegalWordIsTheEncodingOfItsCommand : Prop :=
  ∀ (w : BusWord) (i : Instr), decode w = .ok i → i.wellFormed = true ∧ encode i = w

/-- R86: the words that decode are those that select a row of opcode_table.json by match, mask and LDC's constraint; the
row has the command's opcode; no word selects two rows. -/
def Obligations.LegalWordsAreTheOpcodeTableRows : Prop :=
  (∀ w : BusWord, (∃ i, decode w = .ok i) ↔ ∃ row ∈ tableRows, row.selects w = true) ∧
  (∀ (w : BusWord) (i : Instr), decode w = .ok i →
    ∃ row ∈ tableRows, row.selects w = true ∧ row.pattern.extractLsb' 24 8 = i.opcode) ∧
  (∀ (w : BusWord) (row row' : TableRow), row ∈ tableRows → row' ∈ tableRows →
    row.selects w = true → row'.selects w = true → row = row')

/-- 95_test_vectors.md and R89: words written out in the spec decode to the commands it names, and three of its ILLEGAL
words do not decode. The spec has one outcome ILLEGAL: the reason names oddPair, constIndex and opcode are the model's own
choice (log 13). -/
def Obligations.WorkedWordsDecode : Prop :=
  decode 0x00000000#32 = .ok .nop ∧
  decode 0x01730000#32 = .ok (.mov 7 3) ∧
  decode 0x0240002A#32 = .ok (.ldi 4 42#16) ∧
  decode 0x03100006#32 = .ok (.ldc 1 6#16) ∧
  decode 0x12312000#32 = .ok (.fadd 3 1 2) ∧
  decode 0x1A012000#32 = .ok (.fcmp 1 2) ∧
  decode 0x24204000#32 = .ok (.pmul 2 0 4) ∧
  decode 0x24203000#32 = .ok (.pmul 2 0 3) ∧
  decode 0x21412000#32 = .error .oddPair ∧
  decode 0x03000007#32 = .error .constIndex ∧
  decode 0x04000000#32 = .error .opcode

/-! ### The engine -/

/-- R92, R93, R253: when the word in flight decodes to a command and the engine acts (its event is next, or no event is
left), the step is that command's `exec`, on the state with that event taken off the schedule. That an exhausted schedule
lets the engine act is the model's choice (log 3). -/
def Obligations.StepRunsTheDecodedCommand : Prop :=
  ∀ (s : State) (f : InFlight) (i : Instr), s.pending = some f → decode f.word = .ok i →
    (∀ rest, s.events = .complete :: rest → step s = exec i { s with events := rest }) ∧
    (s.events = [] → step s = exec i s)

/-- R87, R203: a word in flight that selects no row of the opcode table completes with ILLEGAL and writes no register and
no flag, at its completion event and on an exhausted schedule (that the engine acts there is the model's choice, log 3). -/
def Obligations.WordOfNoRowCompletesIllegal : Prop :=
  ∀ (s : State) (f : InFlight), s.pending = some f → (∀ row ∈ tableRows, row.selects f.word = false) →
    (∀ rest, s.events = .complete :: rest → step s = .next (errState { s with events := rest } 0x01#8)) ∧
    (s.events = [] → step s = .next (errState s 0x01#8))

/-- R90: a CMD write while BUSY is 0 is accepted, whatever the word; CMD and PENDING take it, the registers are captured,
BUSY rises, DONE falls and with it irq, and nothing else changes. While BUSY is 1 it is dropped: only OVR is set. -/
def Obligations.IdleCmdWriteIsAccepted : Prop :=
  ∀ (s : State) (w : BusWord) (rest : List Event), s.events = .host (.write 0x00C#12 4 w) :: rest →
    (s.status.busy = false →
      ∃ t, step s = .next t ∧
        t = { s with
              events := rest
              port := .ack
              cmd := w
              pending := some ⟨w, s.regs⟩
              status := { s.status with busy := true, done := false } } ∧
        t.irq = false) ∧
    (s.status.busy = true →
      step s = .next { s with events := rest, port := .ack, status := { s.status with ovr := true } })

/-- R203 (and R93, R210): every command completes in one step; BUSY falls, DONE rises, nothing is in flight, irq is
CTRL.IE; CMD, CTRL and OVR are unchanged. With an error code ERR is set and no register and no flag is written. With code
0 ERR is kept; which registers and flags take which values then is said by the command's own statement below, not here. -/
def Obligations.EveryCommandCompletesPrecisely : Prop :=
  ∀ (i : Instr) (s : State), ∃ t, exec i s = .next t ∧
    t.status.busy = false ∧ t.status.done = true ∧ t.pending = none ∧ t.irq = s.ie ∧
    t.cmd = s.cmd ∧ t.ie = s.ie ∧ t.status.ovr = s.status.ovr ∧
    t.events = s.events ∧ t.port = s.port ∧ t.draws = s.draws ∧
    (t.errcode = 0x00#8 ∧ t.status.err = s.status.err ∨
     t.errcode ∈ [0x01#8, 0x02#8, 0x03#8, 0x04#8] ∧ t.status.err = true ∧ t.regs = s.regs ∧ t.flags = s.flags)

/-- R25: each command writes only the flags listed for it. -/
def Obligations.FlagsAreWrittenByTheirCommandsOnly : Prop :=
  ∀ (i : Instr) (s t : State), exec i s = .next t →
    (writesZ i = false → t.flags.z = s.flags.z) ∧
    (writesCmp i = false → t.flags.eq = s.flags.eq ∧ t.flags.lt = s.flags.lt) ∧
    (writesNone i = false → t.flags.none = s.flags.none)

/-- R94: a command writes no register but its destination. -/
def Obligations.OnlyDestinationRegistersChange : Prop :=
  ∀ (i : Instr) (s t : State) (r : Reg), exec i s = .next t → r ∉ destinations i →
    getReg t.regs r = getReg s.regs r

/-- R201, R202: the outcome codes each legal command can complete with. That an ill-formed term, which no word decodes to,
completes with ILLEGAL is the model's choice (log 5). -/
def Obligations.OutcomeCodesOfEachCommand : Prop :=
  ∀ (i : Instr) (s t : State), exec i s = .next t →
    (i.wellFormed = true → t.errcode ∈ outcomes i) ∧ (i.wellFormed = false → t = errState s 0x01#8)

/-- R91, R93: the outcome and every value written follow from the command and the snapshot alone. Two states with equal
snapshots give the same code; each register, and each flag, has the same value after both or is left as it was by both. -/
def Obligations.ResultsDependOnSnapshotOnly : Prop :=
  ∀ (i : Instr) (s s' t t' : State), s.snapshot = s'.snapshot → exec i s = .next t → exec i s' = .next t' →
    t.errcode = t'.errcode ∧
    (∀ r : Reg, getReg t.regs r = getReg t'.regs r ∨
      getReg t.regs r = getReg s.regs r ∧ getReg t'.regs r = getReg s'.regs r) ∧
    (t.flags.z = t'.flags.z ∨ t.flags.z = s.flags.z ∧ t'.flags.z = s'.flags.z) ∧
    (t.flags.eq = t'.flags.eq ∨ t.flags.eq = s.flags.eq ∧ t'.flags.eq = s'.flags.eq) ∧
    (t.flags.lt = t'.flags.lt ∨ t.flags.lt = s.flags.lt ∧ t'.flags.lt = s'.flags.lt) ∧
    (t.flags.none = t'.flags.none ∨ t.flags.none = s.flags.none ∧ t'.flags.none = s'.flags.none)

/-- R91: operands are the snapshot's registers, and in every state of the invariant these are the current ones. -/
def Obligations.OperandsAreTheSnapshot : Prop :=
  (∀ (s : State) (f : InFlight), s.pending = some f → s.snapshot = f.snap) ∧
  (∀ s : State, s.Inv → s.snapshot = s.regs)

/-! ### Register-transfer commands -/

/-- R180 to R183: NOP writes nothing, and no other word has its opcode; MOV copies raw; LDI loads the zero-extended
immediate; LDC loads a constant of the ROM, and a word with an index above 6 is ILLEGAL; so is a format I word with bits
19:16 nonzero. -/
def Obligations.TransferCommandsWriteTheirValue : Prop :=
  (∀ (rd ra : Reg) (imm16 : BitVec 16) (s : State),
    decode 0x00000000#32 = .ok .nop ∧
    decode (wordR 0x01#8 rd ra 0) = .ok (.mov rd ra) ∧
    decode (wordI 0x02#8 rd imm16) = .ok (.ldi rd imm16) ∧
    exec .nop s = .next (okState s s.regs s.flags) ∧
    exec (.mov rd ra) s = .next (okState s (setReg s.regs rd (getReg s.snapshot ra)) s.flags) ∧
    exec (.ldi rd imm16) s = .next (okState s (setReg s.regs rd (w256 imm16.toNat)) s.flags) ∧
    (∀ v, constants[imm16.toNat]? = some v →
      decode (wordI 0x03#8 rd imm16) = .ok (.ldc rd imm16) ∧
      exec (.ldc rd imm16) s = .next (okState s (setReg s.regs rd v) s.flags)) ∧
    (6 < imm16.toNat → ∃ e, decode (wordI 0x03#8 rd imm16) = .error e)) ∧
  (∀ w : BusWord, w.toNat / 2 ^ 24 = 0x00 → w ≠ 0#32 → ∃ e, decode w = .error e) ∧
  (∀ w : BusWord, w.toNat / 2 ^ 24 = 0x02 ∨ w.toNat / 2 ^ 24 = 0x03 → w.toNat / 2 ^ 16 % 16 ≠ 0 →
    ∃ e, decode w = .error e)

/-! ### Field commands -/

/-- R100, R110: FRED writes the least non-negative residue modulo p, of any value. -/
def Obligations.FredReducesModP : Prop :=
  ∀ (rd ra : Reg) (s : State),
    decode (wordR 0x10#8 rd ra 0) = .ok (.fred rd ra) ∧
    exec (.fred rd ra) s = .next (okState s (setReg s.regs rd (w256 (val s ra % p))) s.flags)

/-- R111: FCHK copies a canonical value and clears NONE, else writes no register and sets NONE, outcome OK either way. -/
def Obligations.FchkValidatesWithoutReducing : Prop :=
  ∀ (rd ra : Reg) (s : State),
    decode (wordR 0x11#8 rd ra 0) = .ok (.fchk rd ra) ∧
    (val s ra < p → exec (.fchk rd ra) s =
      .next (okState s (setReg s.regs rd (w256 (val s ra))) { s.flags with none := false })) ∧
    (p ≤ val s ra → exec (.fchk rd ra) s = .next (okState s s.regs { s.flags with none := true }))

/-- R101, R112: FADD writes (a + b) mod p of canonical operands, else raises NONCANONICAL. -/
def Obligations.FaddAddsModP : Prop :=
  ∀ (rd ra rb : Reg) (s : State),
    decode (wordR 0x12#8 rd ra rb) = .ok (.fadd rd ra rb) ∧
    (val s ra < p ∧ val s rb < p → exec (.fadd rd ra rb) s =
      .next (okState s (setReg s.regs rd (w256 ((val s ra + val s rb) % p))) s.flags)) ∧
    (p ≤ val s ra ∨ p ≤ val s rb → exec (.fadd rd ra rb) s = .next (errState s 0x02#8))

/-- R102, R113: FSUB writes (a - b) mod p of canonical operands, else raises NONCANONICAL. -/
def Obligations.FsubSubtractsModP : Prop :=
  ∀ (rd ra rb : Reg) (s : State),
    decode (wordR 0x13#8 rd ra rb) = .ok (.fsub rd ra rb) ∧
    (val s ra < p ∧ val s rb < p → exec (.fsub rd ra rb) s =
      .next (okState s (setReg s.regs rd (w256 ((val s ra + (p - val s rb)) % p))) s.flags)) ∧
    (p ≤ val s ra ∨ p ≤ val s rb → exec (.fsub rd ra rb) s = .next (errState s 0x02#8))

/-- R103, R114: FNEG writes (p - v) mod p of a canonical operand, so 0 for 0, else raises NONCANONICAL. -/
def Obligations.FnegNegatesModP : Prop :=
  ∀ (rd ra : Reg) (s : State),
    decode (wordR 0x14#8 rd ra 0) = .ok (.fneg rd ra) ∧
    (val s ra < p → exec (.fneg rd ra) s =
      .next (okState s (setReg s.regs rd (w256 ((p - val s ra) % p))) s.flags)) ∧
    (p ≤ val s ra → exec (.fneg rd ra) s = .next (errState s 0x02#8))

/-- R104, R105: the 256-step double-and-add loop is multiplication modulo p, for a canonical multiplicand and any
multiplier; reducing the multiplier first changes nothing. -/
def Obligations.DoubleAndAddLoopIsProductModP : Prop :=
  ∀ a m : Word, a.toNat < p →
    (fmul a m).toNat = a.toNat * m.toNat % p ∧ fmul a m = fmul a (w256 (m.toNat % p))

/-- R105, R115, R116: FMUL writes (a * m) mod p of canonical operands; FMULS takes any scalar m, unreduced; both raise
NONCANONICAL on a checked operand at or above p. -/
def Obligations.FmulAndFmulsMultiplyModP : Prop :=
  ∀ (rd ra rb : Reg) (s : State),
    decode (wordR 0x15#8 rd ra rb) = .ok (.fmul rd ra rb) ∧
    decode (wordR 0x16#8 rd ra rb) = .ok (.fmuls rd ra rb) ∧
    (val s ra < p ∧ val s rb < p → exec (.fmul rd ra rb) s =
      .next (okState s (setReg s.regs rd (w256 (val s ra * val s rb % p))) s.flags)) ∧
    (p ≤ val s ra ∨ p ≤ val s rb → exec (.fmul rd ra rb) s = .next (errState s 0x02#8)) ∧
    (val s ra < p → exec (.fmuls rd ra rb) s =
      .next (okState s (setReg s.regs rd (w256 (val s ra * val s rb % p))) s.flags)) ∧
    (p ≤ val s ra → exec (.fmuls rd ra rb) s = .next (errState s 0x02#8))

/-- R106, R117: FINV of a canonical nonzero operand writes the unique t in [1, p-1] with (a * t) mod p = 1; zero raises
DIV_BY_ZERO, a non-canonical operand NONCANONICAL. -/
def Obligations.FinvWritesTheUniqueInverse : Prop :=
  ∀ (rd ra : Reg) (s : State),
    decode (wordR 0x17#8 rd ra 0) = .ok (.finv rd ra) ∧
    (val s ra < p ∧ val s ra ≠ 0 →
      ∃ t : Nat, (1 ≤ t ∧ t < p ∧ val s ra * t % p = 1) ∧
        (∀ u : Nat, 1 ≤ u → u < p → val s ra * u % p = 1 → u = t) ∧
        exec (.finv rd ra) s = .next (okState s (setReg s.regs rd (w256 t)) s.flags)) ∧
    (val s ra = 0 → exec (.finv rd ra) s = .next (errState s 0x04#8)) ∧
    (p ≤ val s ra → exec (.finv rd ra) s = .next (errState s 0x02#8))

/-- R118, R207: FDIV of canonical operands with a nonzero divisor b writes the unique quotient q < p with
(q * b) mod p = a; NONCANONICAL comes before DIV_BY_ZERO. -/
def Obligations.FdivWritesTheQuotient : Prop :=
  ∀ (rd ra rb : Reg) (s : State),
    decode (wordR 0x18#8 rd ra rb) = .ok (.fdiv rd ra rb) ∧
    (val s ra < p ∧ val s rb < p ∧ val s rb ≠ 0 →
      ∃ q : Nat, (q < p ∧ q * val s rb % p = val s ra) ∧
        (∀ u : Nat, u < p → u * val s rb % p = val s ra → u = q) ∧
        exec (.fdiv rd ra rb) s = .next (okState s (setReg s.regs rd (w256 q)) s.flags)) ∧
    (val s ra < p ∧ val s rb = 0 → exec (.fdiv rd ra rb) s = .next (errState s 0x04#8)) ∧
    (p ≤ val s ra ∨ p ≤ val s rb → exec (.fdiv rd ra rb) s = .next (errState s 0x02#8))

/-- R119, R120: FISZ writes Z, FCMP writes EQ and LT, on raw unsigned values, and nothing else. -/
def Obligations.FieldTestsWriteTheirFlags : Prop :=
  ∀ (ra rb : Reg) (s : State),
    decode (wordR 0x19#8 0 ra 0) = .ok (.fisz ra) ∧
    decode (wordR 0x1A#8 0 ra rb) = .ok (.fcmp ra rb) ∧
    exec (.fisz ra) s = .next (okState s s.regs { s.flags with z := val s ra == 0 }) ∧
    exec (.fcmp ra rb) s = .next (okState s s.regs
      { s.flags with eq := val s ra == val s rb, lt := decide (val s ra < val s rb) })

/-- R254: the multiplications of R104 and R145, run with the record of log 2 beside them, give their result with 256
doublings and one addition for each set bit of the multiplier. The record is the model's own device (log 2). -/
def Obligations.LoopPerformsOneAdditionPerSetBit : Prop :=
  (∀ a m : Word, ladderCounted (fun acc => fadd acc acc) (fun acc => fadd acc a) m 0#256 =
    (fmul a m, 256, popcount m)) ∧
  (∀ (q : Point) (m : Word), ladderCounted (fun acc => padd acc acc) (fun acc => padd acc q) m inf =
    (pmul q m, 256, popcount m))

/-! ### Point and scalar commands -/

/-- R15, R150: PCHK copies a Valid pair and clears NONE, else writes no register and sets NONE, outcome OK either way. -/
def Obligations.PchkValidatesThePair : Prop :=
  ∀ (rd ra : Reg) (s : State), IsPair rd → IsPair ra →
    decode (wordR 0x20#8 rd ra 0) = .ok (.pchk rd ra) ∧
    (OnCurve (pt s ra) → exec (.pchk rd ra) s =
      .next (okState s (setPair s.regs rd (pt s ra)) { s.flags with none := false })) ∧
    (¬ OnCurve (pt s ra) → exec (.pchk rd ra) s = .next (okState s s.regs { s.flags with none := true }))

/-- R151, R157: PISINF writes Z, PCMP writes EQ and LT (lexicographic, x first), on raw pairs, and nothing else. -/
def Obligations.PointTestsWriteTheirFlags : Prop :=
  ∀ (ra rb : Reg) (s : State), IsPair ra → IsPair rb →
    decode (wordR 0x25#8 0 ra 0) = .ok (.pisinf ra) ∧
    decode (wordR 0x26#8 0 ra rb) = .ok (.pcmp ra rb) ∧
    (∃ z : Bool, (z = true ↔ val s ra = 0 ∧ val s (ra + 1) = 0) ∧
      exec (.pisinf ra) s = .next (okState s s.regs { s.flags with z := z })) ∧
    (∃ e l : Bool, (e = true ↔ val s ra = val s rb ∧ val s (ra + 1) = val s (rb + 1)) ∧
      (l = true ↔ val s ra < val s rb ∨ val s ra = val s rb ∧ val s (ra + 1) < val s (rb + 1)) ∧
      exec (.pcmp ra rb) s = .next (okState s s.regs { s.flags with eq := e, lt := l }))

/-- R141, R152: PADD of Valid points writes their sum by the group law of R141, else raises NOT_ON_CURVE. -/
def Obligations.PaddWritesTheSum : Prop :=
  ∀ (rd ra rb : Reg) (s : State), IsPair rd → IsPair ra → IsPair rb →
    decode (wordR 0x21#8 rd ra rb) = .ok (.padd rd ra rb) ∧
    (OnCurve (pt s ra) ∧ OnCurve (pt s rb) →
      ∃ r, IsSum (pt s ra) (pt s rb) r ∧
        exec (.padd rd ra rb) s = .next (okState s (setPair s.regs rd r) s.flags)) ∧
    (¬ OnCurve (pt s ra) ∨ ¬ OnCurve (pt s rb) → exec (.padd rd ra rb) s = .next (errState s 0x03#8))

/-- R153: PDBL of a Valid point writes its sum with itself, as PADD of the pair with itself does, else raises
NOT_ON_CURVE. -/
def Obligations.PdblWritesTheDouble : Prop :=
  ∀ (rd ra : Reg) (s : State), IsPair rd → IsPair ra →
    decode (wordR 0x22#8 rd ra 0) = .ok (.pdbl rd ra) ∧
    exec (.pdbl rd ra) s = exec (.padd rd ra ra) s ∧
    (OnCurve (pt s ra) →
      ∃ r, IsSum (pt s ra) (pt s ra) r ∧
        exec (.pdbl rd ra) s = .next (okState s (setPair s.regs rd r) s.flags)) ∧
    (¬ OnCurve (pt s ra) → exec (.pdbl rd ra) s = .next (errState s 0x03#8))

/-- R144, R154: PNEG of a Valid point (x, y) writes (x, (p - y) mod p), else raises NOT_ON_CURVE. -/
def Obligations.PnegNegatesTheY : Prop :=
  ∀ (rd ra : Reg) (s : State), IsPair rd → IsPair ra →
    decode (wordR 0x23#8 rd ra 0) = .ok (.pneg rd ra) ∧
    (OnCurve (pt s ra) → exec (.pneg rd ra) s =
      .next (okState s (setPair s.regs rd ⟨(pt s ra).x, w256 ((p - (pt s ra).y.toNat) % p)⟩) s.flags)) ∧
    (¬ OnCurve (pt s ra) → exec (.pneg rd ra) s = .next (errState s 0x03#8))

/-- R145, R155: PMUL of a Valid point writes what 256 iterations of doubling and conditional addition give, for any
scalar, unreduced, else raises NOT_ON_CURVE. -/
def Obligations.PmulIsDoubleAndAdd : Prop :=
  ∀ (rd ra rb : Reg) (s : State), IsPair rd → IsPair ra →
    decode (wordR 0x24#8 rd ra rb) = .ok (.pmul rd ra rb) ∧
    (OnCurve (pt s ra) → exec (.pmul rd ra rb) s =
      .next (okState s (setPair s.regs rd (doubleAndAdd (pt s ra) (getReg s.snapshot rb))) s.flags)) ∧
    (¬ OnCurve (pt s ra) → exec (.pmul rd ra rb) s = .next (errState s 0x03#8))

/-- R146, closed form: the scalar multiplier gives the s-fold sum of a Valid point (it rests on the group law, which R143
marks as general knowledge). -/
def Obligations.PmulIsTheFoldSum : Prop :=
  ∀ (q : Point) (k : Word), OnCurve q → pmul q k = nFold q k.toNat

/-- R142: for Valid points that reach case 3 of R141, where `padd` calls `slope`, the divisor that `slope` hands to `finv`
is never zero: 2 y in the doubling branch, the difference of the x coordinates in the other. -/
def Obligations.PaddNeverDividesByZero : Prop :=
  ∀ a b : Point, OnCurve a → OnCurve b → a ≠ inf → b ≠ inf → ¬ (a.x = b.x ∧ a.y = fneg b.y) →
    (a = b → fmul 2#256 a.y ≠ 0#256) ∧ (a ≠ b → fsub b.x a.x ≠ 0#256)

/-- R143, closure: the sum of Valid points is Valid (R143 marks the group law as general knowledge). -/
def Obligations.PaddOfValidPointsIsValid : Prop :=
  ∀ a b : Point, OnCurve a → OnCurve b → OnCurve (padd a b)

/-- R143, R158: INF is neutral, the negative is Valid and the inverse, and addition commutes, on Valid points (R143 marks
the group law as general knowledge). Associativity is the next statement. -/
def Obligations.PaddNeutralInverseAndCommutes : Prop :=
  ∀ a b : Point, OnCurve a → OnCurve b →
    padd a b = padd b a ∧ padd a inf = a ∧ padd inf a = a ∧ padd a (pneg a) = inf ∧ OnCurve (pneg a)

/-- R143: addition of Valid points is associative (R143 marks the group law as general knowledge). -/
def Obligations.PaddIsAssociative : Prop :=
  ∀ a b c : Point, OnCurve a → OnCurve b → OnCurve c → padd (padd a b) c = padd a (padd b c)

/-- R147, R156: SINV of a scalar coprime to n writes the unique t in [1, n-1] with (s * t) mod n = 1, else raises
DIV_BY_ZERO. -/
def Obligations.SinvInvertsModN : Prop :=
  ∀ (rd ra : Reg) (s : State),
    decode (wordR 0x27#8 rd ra 0) = .ok (.sinv rd ra) ∧
    (Nat.gcd (val s ra % n) n = 1 →
      ∃ t : Nat, (1 ≤ t ∧ t < n ∧ val s ra * t % n = 1) ∧
        (∀ u : Nat, 1 ≤ u → u < n → val s ra * u % n = 1 → u = t) ∧
        exec (.sinv rd ra) s = .next (okState s (setReg s.regs rd (w256 t)) s.flags)) ∧
    (Nat.gcd (val s ra % n) n ≠ 1 → exec (.sinv rd ra) s = .next (errState s 0x04#8))

/-! ### The register window -/

/-- R52, R206: an access that is not 32 bits wide or not aligned is a bus error and changes no state of the block. -/
def Obligations.IllegalAccessIsABusError : Prop :=
  ∀ (s : State) (rest : List Event) (off : Offset) (size : Nat) (v : BusWord), size ≠ 4 ∨ off.toNat % 4 ≠ 0 →
    (s.events = .host (.read off size) :: rest →
      step s = .next { s with events := rest, port := .error Config.busErrorSignal }) ∧
    (s.events = .host (.write off size v) :: rest →
      step s = .next { s with events := rest, port := .error Config.busErrorSignal })

/-- R56: a read, of any offset and width, leaves every state of the block unchanged; only the bus response and the
model's count of free values can differ. -/
def Obligations.ReadsHaveNoSideEffect : Prop :=
  ∀ (s : State) (rest : List Event) (off : Offset) (size : Nat), s.events = .host (.read off size) :: rest →
    ∃ port draws, step s = .next { s with events := rest, port := port, draws := draws }

/-- R26, R28, R29, R31 to R34, R251: what the control and status registers and the reserved offsets read as, BUSY or
not: the numbers whose bits are the fields. -/
def Obligations.ControlRegistersReadTheirFields : Prop :=
  ∀ (s : State) (rest : List Event) (off : Offset) (v : BusWord), s.events = .host (.read off 4) :: rest →
    (off = 0x000#12 ∧ v = Config.idValue ∨
     off = 0x004#12 ∧ v.toNat = s.ie.toNat ∨
     off = 0x008#12 ∧ v.toNat = s.status.busy.toNat + 2 * s.status.done.toNat + 4 * s.status.err.toNat +
       8 * s.status.ovr.toNat ∨
     off = 0x00C#12 ∧ v = s.cmd ∨
     off = 0x010#12 ∧ v.toNat = s.errcode.toNat ∨
     off = 0x014#12 ∧ v.toNat = s.flags.z.toNat + 2 * s.flags.eq.toNat + 4 * s.flags.lt.toNat +
       8 * s.flags.none.toNat ∨
     off.toNat % 4 = 0 ∧ (0x018 ≤ off.toNat ∧ off.toNat ≤ 0x0FC ∨ 0x300 ≤ off.toNat) ∧ v = 0#32) →
    step s = .next { s with events := rest, port := .data v }

/-- R54, R251: word j of R[i] reads as bits 32j+31 : 32j of R[i] while idle; while BUSY the read takes a free value
(log 7). -/
def Obligations.WindowReadReturnsItsWord : Prop :=
  ∀ (s : State) (rest : List Event) (i : Reg) (j : Fin 8) (off : Offset),
    off.toNat = 0x100 + 32 * i.val + 4 * j.val → s.events = .host (.read off 4) :: rest →
    (s.status.busy = false →
      ∃ v : BusWord, v.toNat = (getReg s.regs i).toNat / 2 ^ (32 * j.val) % 2 ^ 32 ∧
        step s = .next { s with events := rest, port := .data v }) ∧
    (s.status.busy = true → step s = .next
      { s with
        events := rest
        port := .data (Config.busyWindowRead s.draws off s.cmd s.regs)
        draws := s.draws + 1 })

/-- R55: an idle window write replaces word j of R[i] and leaves the other seven words, and all other state, unchanged;
while BUSY it is dropped: only OVR is set. -/
def Obligations.WindowWriteReplacesOneWord : Prop :=
  ∀ (s : State) (rest : List Event) (i : Reg) (j : Fin 8) (off : Offset) (v : BusWord),
    off.toNat = 0x100 + 32 * i.val + 4 * j.val → s.events = .host (.write off 4 v) :: rest →
    (s.status.busy = false →
      ∃ x : Word, step s = .next { s with events := rest, port := .ack, regs := setReg s.regs i x } ∧
        x.extractLsb' (32 * j.val) 32 = v ∧
        ∀ k : Fin 8, k ≠ j → x.extractLsb' (32 * k.val) 32 = (getReg s.regs i).extractLsb' (32 * k.val) 32) ∧
    (s.status.busy = true →
      step s = .next { s with events := rest, port := .ack, status := { s.status with ovr := true } })

/-- R31, R250: while BUSY a CMD or window write sets OVR and does nothing else; writes to ID, ERRCODE, FLAGS and reserved
offsets are ignored whether busy or not; every such write completes normally on the bus. -/
def Obligations.DroppedAndIgnoredWrites : Prop :=
  ∀ (s : State) (rest : List Event) (off : Offset) (v : BusWord), s.events = .host (.write off 4 v) :: rest →
    off.toNat % 4 = 0 →
    ((off.toNat = 0x00C ∨ 0x100 ≤ off.toNat ∧ off.toNat ≤ 0x2FC) → s.status.busy = true →
      step s = .next { s with events := rest, port := .ack, status := { s.status with ovr := true } }) ∧
    ((off.toNat = 0x000 ∨ 0x010 ≤ off.toNat ∧ off.toNat ≤ 0x0FC ∨ 0x300 ≤ off.toNat) →
      step s = .next { s with events := rest, port := .ack })

/-- R29: a STATUS write clears DONE, ERR and OVR where it has a 1 and changes nothing else, BUSY or not. -/
def Obligations.StatusWriteClearsOnes : Prop :=
  ∀ (s : State) (rest : List Event) (v : BusWord), s.events = .host (.write 0x008#12 4 v) :: rest →
    step s = .next
      { s with
        events := rest
        port := .ack
        status :=
          { busy := s.status.busy
            done := if v.getLsbD 1 then false else s.status.done
            err := if v.getLsbD 2 then false else s.status.err
            ovr := if v.getLsbD 3 then false else s.status.ovr } }

/-- R28, R36: a CTRL write without SRST sets IE to bit 0, at once, and changes nothing else; irq is IE and DONE. -/
def Obligations.CtrlWriteSetsInterruptEnable : Prop :=
  ∀ (s : State) (rest : List Event) (v : BusWord), s.events = .host (.write 0x004#12 4 v) :: rest →
    v.getLsbD 1 = false →
    ∃ t, step s = .next t ∧ t = { s with events := rest, port := .ack, ie := v.getLsbD 0 } ∧
      t.irq = (v.getLsbD 0 && s.status.done)

/-- R53: byte lane k of the window, at bus address BASE + off + k, is bits 8k+7 : 8k of the word at off. -/
def Obligations.ByteLanesAreLittleEndian : Prop :=
  ∀ (s : State) (i : Reg) (j : Fin 8) (k : Fin 4), s.status.busy = false →
    ∃ b : Byte, s.busByte (Config.base + (0x100 + 32 * i.val + 4 * j.val) + k.val) = some b ∧
      b.toNat = (getReg s.regs i).toNat / 2 ^ (32 * j.val + 8 * k.val) % 2 ^ 8

/-! ### Reset -/

/-- R240: the state after reset. -/
def Obligations.ResetValues : Prop :=
  (∀ r : Reg, getReg State.reset.regs r = 0#256) ∧
  State.reset.flags = ⟨false, false, false, false⟩ ∧ State.reset.ie = false ∧
  State.reset.status = ⟨false, false, false, false⟩ ∧ State.reset.errcode = 0x00#8 ∧ State.reset.cmd = 0#32 ∧
  State.reset.pending = none ∧ State.reset.irq = false

/-- R240, R241, R242: the reset input, and a CTRL write with bit 1 set whatever its other bits, put every state of the
block at its reset value from any state, a command in flight or not. That the schedule goes on and the bus response and
the draw count are kept is the model's choice (log 17). -/
def Obligations.EveryResetGivesTheResetState : Prop :=
  ∀ (s : State) (rest : List Event),
    (s.events = .hardReset :: rest →
      step s = .next { State.reset with events := rest, port := s.port, draws := s.draws }) ∧
    (∀ v : BusWord, v.getLsbD 1 = true → s.events = .host (.write 0x004#12 4 v) :: rest →
      step s = .next { State.reset with events := rest, port := .ack, draws := s.draws })

/-! ### Whole-machine rules -/

/-- R208: a completion and a host write in one clock cycle. The completion's DONE and ERR win over a STATUS write; a soft
reset wins over the completion; a CMD write is ordered after the completion and is accepted. That the soft reset keeps the
schedule and the draw count is the model's choice (log 17). -/
def Obligations.SameCycleOutcomes : Prop :=
  ∀ (s u : State) (f : InFlight) (rest : List Event) (v : BusWord) (hostFirst : Bool), s.pending = some f →
    engineStep { s with events := rest } = .next u →
    (s.events = .coincide (.write 0x008#12 4 v) hostFirst :: rest →
      ∃ t, step s = .next t ∧ t.status.done = true ∧ (u.errcode ≠ 0x00#8 → t.status.err = true) ∧
        t.status.busy = false ∧ t.errcode = u.errcode ∧ t.regs = u.regs ∧ t.flags = u.flags ∧ t.pending = none) ∧
    (s.events = .coincide (.write 0x004#12 4 v) hostFirst :: rest → v.getLsbD 1 = true →
      step s = .next { State.reset with events := rest, port := .ack, draws := s.draws }) ∧
    (s.events = .coincide (.write 0x00C#12 4 v) hostFirst :: rest →
      ∃ t, step s = .next t ∧ t.pending = some ⟨v, u.regs⟩ ∧ t.cmd = v ∧ t.status.busy = true ∧
        t.status.done = false ∧ t.errcode = u.errcode ∧ t.regs = u.regs ∧ t.flags = u.flags ∧
        t.status.ovr = s.status.ovr)

/-- R200, R206: no event stops the block; from every state the step answers a next state. -/
def Obligations.EveryStepAnswersANextState : Prop :=
  ∀ s : State, ∃ t, step s = .next t

/-- R30, R31, R91, R201: the invariant of `State.Inv` is kept by every step, from every state that meets it. -/
def Obligations.EveryStepKeepsTheBlockInvariant : Prop :=
  ∀ s t : State, s.Inv → step s = .next t → t.Inv

/-- The invariant holds right after reset. -/
def Obligations.ResetMeetsTheBlockInvariant : Prop := State.reset.Inv

/-- R29, R211: ERR and OVR are sticky: a step lowers one only if it is a reset, or has a 32-bit STATUS write with a 1 in
that bit; so a step on an exhausted schedule never does. -/
def Obligations.ErrAndOvrAreSticky : Prop :=
  ∀ s t : State, step s = .next t → ¬ resetsNext s →
    (s.status.err = true → t.status.err = false →
      ∃ v : BusWord, accessNext s = some (.write 0x008#12 4 v) ∧ v.getLsbD 2 = true) ∧
    (s.status.ovr = true → t.status.ovr = false →
      ∃ v : BusWord, accessNext s = some (.write 0x008#12 4 v) ∧ v.getLsbD 3 = true)

/-- R32, R25: ERRCODE and FLAGS change only at the completion of a command in flight or at a reset; a completion event
that finds nothing in flight changes neither, whatever host access shares its clock cycle. -/
def Obligations.ErrcodeAndFlagsChangeOnlyAtCompletion : Prop :=
  ∀ s t : State, step s = .next t → ¬ completesNext s → ¬ resetsNext s →
    t.errcode = s.errcode ∧ t.flags = s.flags

/-- R20, R55, R61, R250: a data register changes only at the completion of a command in flight, at a reset, or by a window
write to it while BUSY is 0, alone or in the clock cycle of a completion event that finds nothing in flight. -/
def Obligations.RegistersChangeOnlyByTheirEvents : Prop :=
  ∀ (s t : State) (r : Reg), step s = .next t → ¬ completesNext s → ¬ resetsNext s →
    getReg t.regs r ≠ getReg s.regs r →
    s.status.busy = false ∧ ∃ (j : Fin 8) (v : BusWord),
      accessNext s = some (.write (BitVec.ofNat 12 (0x100 + 32 * r.val + 4 * j.val)) 4 v)

/-- R253: every command completes. Whatever the events are, within one step more than their number nothing is in flight
and BUSY is 0 (from every state of the invariant). That the engine completes when the schedule is exhausted is the model's
form of fairness (log 3). -/
def Obligations.NoCommandStaysInFlight : Prop :=
  ∀ s : State, s.Inv → ∃ t, Reaches (s.events.length + 1) s t ∧ t.pending = none ∧ t.status.busy = false ∧ t.events = []

/-- R93, R253: a command in flight completes at its completion event: whatever transactions the host makes before it, if
none of them resets the block, the state after the completion has DONE set, nothing in flight, CMD still the command's
word, and the registers are those that its completion from the accepting state gives. -/
def Obligations.HostCannotDisturbACommandInFlight : Prop :=
  ∀ (s u : State) (f : InFlight) (as : List Access) (rest : List Event), s.Inv → s.pending = some f →
    (∀ a ∈ as, ¬ isReset (.host a)) →
    s.events = as.map Event.host ++ .complete :: rest → engineStep s = .next u →
    ∃ t, Reaches (as.length + 1) s t ∧ t.status.done = true ∧ t.pending = none ∧ t.cmd = f.word ∧
      t.regs = u.regs ∧ t.flags = u.flags ∧ t.errcode = u.errcode
end

