-- ==== Sys2Proof/Laws/Decode.lean ====
section
/-! SUPPORT. The value of a formatted command word and each of its fields, said once for format R and format I. -/

namespace Sys2Proof

/-- Concatenation as arithmetic: the high part is shifted past the low one (R11). -/
theorem toNat_append_eq {a b : Nat} (x : BitVec a) (y : BitVec b) :
    (x ++ y).toNat = x.toNat * 2 ^ b + y.toNat := by
  rw [BitVec.toNat_append, ← Nat.shiftLeft_add_eq_or_of_lt y.isLt, Nat.shiftLeft_eq]

theorem formatR_toNat (op : BitVec 8) (rd ra rb : Reg) :
    (formatR op rd ra rb).toNat = op.toNat * 2 ^ 24 + rd.val * 2 ^ 20 + ra.val * 2 ^ 16 + rb.val * 2 ^ 12 := by
  simp only [formatR, toNat_append_eq, BitVec.toNat_ofFin, BitVec.toNat_ofNat]
  omega

theorem formatI_toNat (op : BitVec 8) (rd : Reg) (imm16 : BitVec 16) :
    (formatI op rd imm16).toNat = op.toNat * 2 ^ 24 + rd.val * 2 ^ 20 + imm16.toNat := by
  simp only [formatI, toNat_append_eq, BitVec.toNat_ofFin, BitVec.toNat_ofNat]
  omega

/-- Bits `s + k - 1 : s` of a word as arithmetic (R11). -/
theorem extract_toNat (w : BusWord) (s k : Nat) : (w.extractLsb' s k).toNat = w.toNat / 2 ^ s % 2 ^ k := by
  simp [BitVec.extractLsb'_toNat, Nat.shiftRight_eq_div_pow]

theorem opField_toNat (w : BusWord) : (opField w).toNat = w.toNat / 2 ^ 24 % 2 ^ 8 := extract_toNat w 24 8
theorem rdField_val (w : BusWord) : (rdField w).val = w.toNat / 2 ^ 20 % 2 ^ 4 := extract_toNat w 20 4
theorem raField_val (w : BusWord) : (raField w).val = w.toNat / 2 ^ 16 % 2 ^ 4 := extract_toNat w 16 4
theorem rbField_val (w : BusWord) : (rbField w).val = w.toNat / 2 ^ 12 % 2 ^ 4 := extract_toNat w 12 4
theorem zeroField_toNat (w : BusWord) : (zeroField w).toNat = w.toNat % 2 ^ 12 := by
  rw [zeroField, extract_toNat, Nat.pow_zero, Nat.div_one]
theorem imm16Field_toNat (w : BusWord) : (imm16Field w).toNat = w.toNat % 2 ^ 16 := by
  rw [imm16Field, extract_toNat, Nat.pow_zero, Nat.div_one]

/-! ### Fields of format R -/

@[simp] theorem opField_formatR (op : BitVec 8) (rd ra rb : Reg) : opField (formatR op rd ra rb) = op := by
  have := op.isLt
  apply BitVec.eq_of_toNat_eq
  rw [opField_toNat, formatR_toNat]; omega

@[simp] theorem rdField_formatR (op : BitVec 8) (rd ra rb : Reg) : rdField (formatR op rd ra rb) = rd := by
  apply Fin.ext
  rw [rdField_val, formatR_toNat]; omega

@[simp] theorem raField_formatR (op : BitVec 8) (rd ra rb : Reg) : raField (formatR op rd ra rb) = ra := by
  apply Fin.ext
  rw [raField_val, formatR_toNat]; omega

@[simp] theorem rbField_formatR (op : BitVec 8) (rd ra rb : Reg) : rbField (formatR op rd ra rb) = rb := by
  apply Fin.ext
  rw [rbField_val, formatR_toNat]; omega

@[simp] theorem zeroField_formatR (op : BitVec 8) (rd ra rb : Reg) : zeroField (formatR op rd ra rb) = 0#12 := by
  apply BitVec.eq_of_toNat_eq
  rw [zeroField_toNat, formatR_toNat, BitVec.toNat_ofNat]; omega

/-! ### Fields of format I -/

@[simp] theorem opField_formatI (op : BitVec 8) (rd : Reg) (imm16 : BitVec 16) :
    opField (formatI op rd imm16) = op := by
  have := op.isLt
  have := imm16.isLt
  apply BitVec.eq_of_toNat_eq
  rw [opField_toNat, formatI_toNat]; omega

@[simp] theorem rdField_formatI (op : BitVec 8) (rd : Reg) (imm16 : BitVec 16) :
    rdField (formatI op rd imm16) = rd := by
  have := imm16.isLt
  apply Fin.ext
  rw [rdField_val, formatI_toNat]; omega

@[simp] theorem imm16Field_formatI (op : BitVec 8) (rd : Reg) (imm16 : BitVec 16) :
    imm16Field (formatI op rd imm16) = imm16 := by
  have := imm16.isLt
  apply BitVec.eq_of_toNat_eq
  rw [imm16Field_toNat, formatI_toNat]; omega

@[simp] theorem reserved_formatI (op : BitVec 8) (rd : Reg) (imm16 : BitVec 16) :
    (formatI op rd imm16).extractLsb' 16 4 = 0#4 := by
  have := imm16.isLt
  apply BitVec.eq_of_toNat_eq
  rw [extract_toNat, formatI_toNat, BitVec.toNat_ofNat]; omega

/-! ### Checks of R86 -/

@[simp] theorem check_zero (r : Reg) : FieldUse.zero.check r = none ↔ r = 0 := by
  by_cases h : r = 0 <;> simp [FieldUse.check, h]
@[simp] theorem check_reg (r : Reg) : FieldUse.reg.check r = none := rfl
@[simp] theorem check_pair (r : Reg) : FieldUse.pair.check r = none ↔ Reg.isPair r = true := by
  by_cases h : Reg.isPair r = true <;> simp [FieldUse.check, h]

theorem isPair_iff (r : Reg) : Reg.isPair r = true ↔ r.val % 2 = 0 := by simp [Reg.isPair]

end Sys2Proof
end

