-- ==== Sys2Proof/Laws/Field.lean ====
section
/-! SUPPORT. What each field primitive computes, as arithmetic on numbers: one lemma per primitive (R100 to R103), the
loop of R104 and R145 as an induction, and the extended Euclidean algorithm (R106, R147). -/

namespace Sys2Proof.Machine

theorem P_toNat : P.toNat = 115792089237316195423570985008687907853269984665640564039457584007908834671663 := by
  decide
theorem N_toNat : N.toNat = 0xFFFFFFFFFFFFFFFFFFFFFFFFFFFFFFFEBAAEDCE6AF48A03BBFD25E8CD0364141 := by decide

theorem canon_iff (v : Word) : canon v = true ↔ v.toNat < P.toNat := by
  simp [canon, BitVec.lt_def]

/-- R100. -/
theorem fred_toNat (v : Word) : (fred v).toNat = v.toNat % P.toNat := by
  have hv := v.isLt
  unfold fred
  split
  · rename_i h
    rw [BitVec.le_def] at h
    rw [BitVec.toNat_sub_of_le h]
    rw [P_toNat] at h ⊢
    omega
  · rename_i h
    rw [BitVec.le_def] at h
    rw [P_toNat] at h ⊢
    omega

/-- R101. -/
theorem fadd_toNat (a b : Word) (ha : a.toNat < P.toNat) (hb : b.toNat < P.toNat) :
    (fadd a b).toNat = (a.toNat + b.toNat) % P.toNat := by
  have hc : (a.toNat + b.toNat).testBit 256 = decide (2 ^ 256 ≤ a.toNat + b.toNat) := by
    rw [Nat.testBit_eq_decide_div_mod_eq]
    congr 1
    apply propext
    omega
  simp only [fadd, hc, decide_eq_true_eq, BitVec.le_def, BitVec.toNat_ofNat]
  rw [P_toNat] at ha hb ⊢
  split
  · rw [BitVec.toNat_sub, BitVec.toNat_ofNat, P_toNat]; omega
  · rw [BitVec.toNat_ofNat]; omega

/-- R102. -/
theorem fsub_toNat (a b : Word) (ha : a.toNat < P.toNat) (hb : b.toNat < P.toNat) :
    (fsub a b).toNat = (a.toNat + (P.toNat - b.toNat)) % P.toNat := by
  simp only [fsub, BitVec.lt_def, decide_eq_true_eq]
  rw [P_toNat] at ha hb ⊢
  split
  · rw [BitVec.toNat_add, BitVec.toNat_sub, P_toNat]; omega
  · rw [BitVec.toNat_sub]; omega

/-- R103. -/
theorem fneg_toNat (v : Word) (hv : v.toNat < P.toNat) : (fneg v).toNat = (P.toNat - v.toNat) % P.toNat := by
  unfold fneg
  split
  · rename_i h; subst h; simp
  · rename_i h
    have h0 : v.toNat ≠ 0 := fun e => h (BitVec.eq_of_toNat_eq (by simpa using e))
    rw [BitVec.toNat_sub]
    rw [P_toNat] at hv ⊢
    omega

/-- The loop of R104 and R145, packaged once: with `i` positions left and accumulator `acc` related by `R` to the
multiplier's bits read so far, doubling and adding keep `R`, so at the end `R` holds of all `i` low bits appended. -/
theorem ladder_inv {α : Type} (dbl add : α → α) (m : Word) (R : Nat → α → Prop)
    (hd : ∀ k x, R k x → R (2 * k) (dbl x)) (ha : ∀ k x, R k x → R (k + 1) (add x)) (i : Nat) :
    ∀ k acc, R k acc → R (k * 2 ^ i + m.toNat % 2 ^ i) (ladder dbl add m i acc) := by
  induction i with
  | zero => intro k acc h; simpa [ladder, Nat.mod_one] using h
  | succ i ih =>
    intro k acc h
    rw [ladder]
    have hbit : m.toNat % 2 ^ (i + 1) = (if m.getLsbD i then 2 ^ i else 0) + m.toNat % 2 ^ i := by
      rw [Nat.mod_pow_succ, BitVec.getLsbD, Nat.testBit_eq_decide_div_mod_eq]
      rcases Nat.mod_two_eq_zero_or_one (m.toNat / 2 ^ i) with e | e <;> simp [e, Nat.add_comm]
    rw [hbit]
    split
    · have := ih _ _ (ha _ _ (hd _ _ h))
      have e : (2 * k + 1) * 2 ^ i + m.toNat % 2 ^ i = k * 2 ^ (i + 1) + (2 ^ i + m.toNat % 2 ^ i) := by ring
      rwa [e] at this
    · have := ih _ _ (hd _ _ h)
      have e : 2 * k * 2 ^ i + m.toNat % 2 ^ i = k * 2 ^ (i + 1) + (0 + m.toNat % 2 ^ i) := by ring
      rwa [e] at this

/-! ### The extended Euclidean algorithm -/

/-- While the remainders are `a` times the coefficients modulo m, the algorithm returns a coefficient of their gcd. The
fuel: with `r1 < 2 ^ k` at most `2 * k + 1` more calls are needed, since two divisions at least halve the remainder. -/
theorem euclid_spec (a m : Nat) : ∀ (k fuel r0 r1 : Nat) (t0 t1 : Int),
    ((m : Int) ∣ a * t0 - r0) → ((m : Int) ∣ a * t1 - r1) → r1 < 2 ^ k → r1 < r0 → 2 * k + 1 ≤ fuel →
    (m : Int) ∣ a * euclid fuel r0 r1 t0 t1 - (Nat.gcd r0 r1 : Nat) := by
  have next : ∀ (r0 r1 : Nat) (t0 t1 : Int), ((m : Int) ∣ a * t0 - r0) → ((m : Int) ∣ a * t1 - r1) →
      (m : Int) ∣ a * (t0 - (r0 / r1 : Nat) * t1) - (r0 % r1 : Nat) := by
    intro r0 r1 t0 t1 h0 h1
    have hdiv : (r0 : Int) = (r0 / r1 : Nat) * r1 + (r0 % r1 : Nat) := by
      exact_mod_cast (Nat.div_add_mod' r0 r1).symm
    have e : (a : Int) * (t0 - (r0 / r1 : Nat) * t1) - (r0 % r1 : Nat)
        = (a * t0 - r0) - (r0 / r1 : Nat) * (a * t1 - r1) := by
      rw [show ((r0 % r1 : Nat) : Int) = r0 - (r0 / r1 : Nat) * r1 by omega]; ring
    rw [e]
    exact dvd_sub h0 (dvd_mul_of_dvd_right h1 _)
  have gcd_step : ∀ r0 r1 : Nat, Nat.gcd r1 (r0 % r1) = Nat.gcd r0 r1 := fun r0 r1 => by
    rw [Nat.gcd_comm r0 r1, Nat.gcd_rec r1 r0, Nat.gcd_comm]
  intro k
  induction k with
  | zero =>
    intro fuel r0 r1 t0 t1 h0 _ hk _ hf
    obtain ⟨f, rfl⟩ : ∃ f, fuel = f + 1 := ⟨fuel - 1, by omega⟩
    obtain rfl : r1 = 0 := by simpa using hk
    simpa [euclid] using h0
  | succ k ih =>
    intro fuel r0 r1 t0 t1 h0 h1 hk hlt hf
    obtain ⟨f, rfl⟩ : ∃ f, fuel = f + 2 := ⟨fuel - 2, by omega⟩
    rw [euclid]
    split
    · rename_i hz; subst hz; simpa using h0
    · rename_i hr1
      have h2 := next r0 r1 t0 t1 h0 h1
      have hm : r0 % r1 < r1 := Nat.mod_lt _ (by omega)
      rw [← gcd_step r0 r1]
      rw [euclid]
      split
      · rename_i hz; rw [hz]; simpa using h1
      · rename_i hr2
        have h3 := next r1 (r0 % r1) t1 _ h1 h2
        have hm2 : r1 % (r0 % r1) < r0 % r1 := Nat.mod_lt _ (by omega)
        have half : r1 % (r0 % r1) < 2 ^ k := by
          have hq : 1 ≤ r1 / (r0 % r1) := Nat.div_pos (by omega) (by omega)
          have := Nat.div_add_mod r1 (r0 % r1)
          have : (r0 % r1) * 1 ≤ (r0 % r1) * (r1 / (r0 % r1)) := Nat.mul_le_mul_left _ hq
          rw [pow_succ] at hk
          omega
        rw [← gcd_step r1 (r0 % r1)]
        exact ih f _ _ _ _ h2 h3 half hm2 (by omega)

/-- R12, R106, R147: for coprime `a < m`, `modInv a m` is the inverse of `a` modulo m. -/
theorem modInv_spec (a m : Nat) (ha : a < m) (hm : m < 2 ^ 256) (hc : Nat.gcd a m = 1) (h1 : 1 < m) :
    modInv a m < m ∧ a * modInv a m % m = 1 := by
  have hm0 : (0 : Int) < m := by omega
  have h := euclid_spec a m 256 514 m a 0 1 ⟨-1, by ring⟩ ⟨0, by ring⟩ (by omega) ha (by omega)
  rw [Nat.gcd_comm, hc] at h
  have hnn : 0 ≤ euclid 514 m a 0 1 % (m : Int) := Int.emod_nonneg _ (by omega)
  have hlt : euclid 514 m a 0 1 % (m : Int) < m := Int.emod_lt_of_pos _ hm0
  have hcast : ((modInv a m : Nat) : Int) = euclid 514 m a 0 1 % (m : Int) := Int.toNat_of_nonneg hnn
  refine ⟨by omega, ?_⟩
  have e : ((a * modInv a m % m : Nat) : Int) = 1 := by
    push_cast
    rw [hcast, Int.mul_emod, Int.emod_emod_of_dvd _ (dvd_refl _), ← Int.mul_emod,
      Int.emod_eq_emod_iff_emod_sub_eq_zero.mpr (Int.emod_eq_zero_of_dvd h)]
    exact Int.emod_eq_of_lt (by norm_num) (by omega)
  exact_mod_cast e

/-- The record beside the loop does not change its accumulator. -/
theorem ladderCounted_fst {α : Type} (dbl add : α → α) (m : Word) (acc : α) :
    (ladderCounted dbl add m acc).1 = ladder dbl add m 256 acc := by
  suffices h : ∀ (i : Nat) (c : α × Nat × Nat),
      (ladder (fun c => (dbl c.1, c.2.1 + 1, c.2.2)) (fun c => (add c.1, c.2.1, c.2.2 + 1)) m i c).1 =
        ladder dbl add m i c.1 from h 256 (acc, 0, 0)
  intro i
  induction i with
  | zero => intro c; rfl
  | succ i ih =>
    intro c
    simp only [ladder, ih]
    split <;> rfl

end Sys2Proof.Machine
end

