-- ==== Sys2Proof/Laws/State.lean ====
section
/-! SUPPORT. One lemma per field of State per update, true by unfolding, so that no later proof unfolds a record update. -/

namespace Sys2Proof.Machine

/-! ### retire -/

@[simp] theorem State.retire_regs (s : State) (o : OutcomeCode) : (s.retire o).regs = s.regs := rfl
@[simp] theorem State.retire_flags (s : State) (o : OutcomeCode) : (s.retire o).flags = s.flags := rfl
@[simp] theorem State.retire_ie (s : State) (o : OutcomeCode) : (s.retire o).ie = s.ie := rfl
@[simp] theorem State.retire_status (s : State) (o : OutcomeCode) :
    (s.retire o).status = { s.status with busy := false, done := true, err := s.status.err || o != .ok } := rfl
@[simp] theorem State.retire_errcode (s : State) (o : OutcomeCode) : (s.retire o).errcode = o.code := rfl
@[simp] theorem State.retire_cmd (s : State) (o : OutcomeCode) : (s.retire o).cmd = s.cmd := rfl
@[simp] theorem State.retire_pending (s : State) (o : OutcomeCode) : (s.retire o).pending = none := rfl
@[simp] theorem State.retire_events (s : State) (o : OutcomeCode) : (s.retire o).events = s.events := rfl
@[simp] theorem State.retire_port (s : State) (o : OutcomeCode) : (s.retire o).port = s.port := rfl
@[simp] theorem State.retire_draws (s : State) (o : OutcomeCode) : (s.retire o).draws = s.draws := rfl

/-! ### fail -/

@[simp] theorem State.fail_regs (s : State) (o : OutcomeCode) : (s.fail o).regs = s.regs := rfl
@[simp] theorem State.fail_flags (s : State) (o : OutcomeCode) : (s.fail o).flags = s.flags := rfl
@[simp] theorem State.fail_ie (s : State) (o : OutcomeCode) : (s.fail o).ie = s.ie := rfl
@[simp] theorem State.fail_status (s : State) (o : OutcomeCode) :
    (s.fail o).status = { s.status with busy := false, done := true, err := s.status.err || o != .ok } := rfl
@[simp] theorem State.fail_errcode (s : State) (o : OutcomeCode) : (s.fail o).errcode = o.code := rfl
@[simp] theorem State.fail_cmd (s : State) (o : OutcomeCode) : (s.fail o).cmd = s.cmd := rfl
@[simp] theorem State.fail_pending (s : State) (o : OutcomeCode) : (s.fail o).pending = none := rfl
@[simp] theorem State.fail_events (s : State) (o : OutcomeCode) : (s.fail o).events = s.events := rfl
@[simp] theorem State.fail_port (s : State) (o : OutcomeCode) : (s.fail o).port = s.port := rfl
@[simp] theorem State.fail_draws (s : State) (o : OutcomeCode) : (s.fail o).draws = s.draws := rfl

/-! ### completeOk -/

@[simp] theorem State.completeOk_regs (s : State) (v : Regs) (f : Flags) : (s.completeOk v f).regs = v := rfl
@[simp] theorem State.completeOk_flags (s : State) (v : Regs) (f : Flags) : (s.completeOk v f).flags = f := rfl
@[simp] theorem State.completeOk_ie (s : State) (v : Regs) (f : Flags) : (s.completeOk v f).ie = s.ie := rfl
@[simp] theorem State.completeOk_status (s : State) (v : Regs) (f : Flags) :
    (s.completeOk v f).status = { s.status with busy := false, done := true } := by
  simp [State.completeOk, State.retire]

@[simp] theorem State.completeOk_errcode (s : State) (v : Regs) (f : Flags) :
    (s.completeOk v f).errcode = 0x00#8 := rfl
@[simp] theorem State.completeOk_cmd (s : State) (v : Regs) (f : Flags) : (s.completeOk v f).cmd = s.cmd := rfl
@[simp] theorem State.completeOk_pending (s : State) (v : Regs) (f : Flags) : (s.completeOk v f).pending = none := rfl
@[simp] theorem State.completeOk_events (s : State) (v : Regs) (f : Flags) :
    (s.completeOk v f).events = s.events := rfl
@[simp] theorem State.completeOk_port (s : State) (v : Regs) (f : Flags) : (s.completeOk v f).port = s.port := rfl
@[simp] theorem State.completeOk_draws (s : State) (v : Regs) (f : Flags) : (s.completeOk v f).draws = s.draws := rfl

/-! ### accept -/

@[simp] theorem State.accept_regs (s : State) (w : BusWord) : (s.accept w).regs = s.regs := rfl
@[simp] theorem State.accept_flags (s : State) (w : BusWord) : (s.accept w).flags = s.flags := rfl
@[simp] theorem State.accept_ie (s : State) (w : BusWord) : (s.accept w).ie = s.ie := rfl
@[simp] theorem State.accept_status (s : State) (w : BusWord) :
    (s.accept w).status = { s.status with busy := true, done := false } := rfl
@[simp] theorem State.accept_errcode (s : State) (w : BusWord) : (s.accept w).errcode = s.errcode := rfl
@[simp] theorem State.accept_cmd (s : State) (w : BusWord) : (s.accept w).cmd = w := rfl
@[simp] theorem State.accept_pending (s : State) (w : BusWord) : (s.accept w).pending = some ⟨w, s.regs⟩ := rfl
@[simp] theorem State.accept_events (s : State) (w : BusWord) : (s.accept w).events = s.events := rfl
@[simp] theorem State.accept_port (s : State) (w : BusWord) : (s.accept w).port = s.port := rfl
@[simp] theorem State.accept_draws (s : State) (w : BusWord) : (s.accept w).draws = s.draws := rfl

/-! ### resetBlock -/

@[simp] theorem State.resetBlock_regs (s : State) : (s.resetBlock).regs = Vector.replicate 16 0#256 := rfl
@[simp] theorem State.resetBlock_flags (s : State) : (s.resetBlock).flags = Flags.clear := rfl
@[simp] theorem State.resetBlock_ie (s : State) : (s.resetBlock).ie = false := rfl
@[simp] theorem State.resetBlock_status (s : State) : (s.resetBlock).status = Status.clear := rfl
@[simp] theorem State.resetBlock_errcode (s : State) : (s.resetBlock).errcode = 0x00#8 := rfl
@[simp] theorem State.resetBlock_cmd (s : State) : (s.resetBlock).cmd = 0#32 := rfl
@[simp] theorem State.resetBlock_pending (s : State) : (s.resetBlock).pending = none := rfl
@[simp] theorem State.resetBlock_events (s : State) : (s.resetBlock).events = s.events := rfl
@[simp] theorem State.resetBlock_port (s : State) : (s.resetBlock).port = s.port := rfl
@[simp] theorem State.resetBlock_draws (s : State) : (s.resetBlock).draws = s.draws := rfl

/-! ### dropWrite -/

@[simp] theorem State.dropWrite_regs (s : State) : (s.dropWrite).regs = s.regs := rfl
@[simp] theorem State.dropWrite_flags (s : State) : (s.dropWrite).flags = s.flags := rfl
@[simp] theorem State.dropWrite_ie (s : State) : (s.dropWrite).ie = s.ie := rfl
@[simp] theorem State.dropWrite_status (s : State) : (s.dropWrite).status = { s.status with ovr := true } := rfl
@[simp] theorem State.dropWrite_errcode (s : State) : (s.dropWrite).errcode = s.errcode := rfl
@[simp] theorem State.dropWrite_cmd (s : State) : (s.dropWrite).cmd = s.cmd := rfl
@[simp] theorem State.dropWrite_pending (s : State) : (s.dropWrite).pending = s.pending := rfl
@[simp] theorem State.dropWrite_events (s : State) : (s.dropWrite).events = s.events := rfl
@[simp] theorem State.dropWrite_port (s : State) : (s.dropWrite).port = s.port := rfl
@[simp] theorem State.dropWrite_draws (s : State) : (s.dropWrite).draws = s.draws := rfl

/-! ### writeStatus -/

@[simp] theorem State.writeStatus_regs (s : State) (v : BusWord) : (s.writeStatus v).regs = s.regs := rfl
@[simp] theorem State.writeStatus_flags (s : State) (v : BusWord) : (s.writeStatus v).flags = s.flags := rfl
@[simp] theorem State.writeStatus_ie (s : State) (v : BusWord) : (s.writeStatus v).ie = s.ie := rfl
@[simp] theorem State.writeStatus_status (s : State) (v : BusWord) :
    (s.writeStatus v).status = s.status.writeOneToClear v := rfl
@[simp] theorem State.writeStatus_errcode (s : State) (v : BusWord) : (s.writeStatus v).errcode = s.errcode := rfl
@[simp] theorem State.writeStatus_cmd (s : State) (v : BusWord) : (s.writeStatus v).cmd = s.cmd := rfl
@[simp] theorem State.writeStatus_pending (s : State) (v : BusWord) : (s.writeStatus v).pending = s.pending := rfl
@[simp] theorem State.writeStatus_events (s : State) (v : BusWord) : (s.writeStatus v).events = s.events := rfl
@[simp] theorem State.writeStatus_port (s : State) (v : BusWord) : (s.writeStatus v).port = s.port := rfl
@[simp] theorem State.writeStatus_draws (s : State) (v : BusWord) : (s.writeStatus v).draws = s.draws := rfl

/-! ### loadCommand -/

@[simp] theorem State.loadCommand_regs (s : State) (w : BusWord) : (s.loadCommand w).regs = s.regs := rfl
@[simp] theorem State.loadCommand_flags (s : State) (w : BusWord) : (s.loadCommand w).flags = s.flags := rfl
@[simp] theorem State.loadCommand_ie (s : State) (w : BusWord) : (s.loadCommand w).ie = s.ie := rfl
@[simp] theorem State.loadCommand_status (s : State) (w : BusWord) :
    (s.loadCommand w).status = { s.status with busy := true, done := false } := rfl
@[simp] theorem State.loadCommand_errcode (s : State) (w : BusWord) : (s.loadCommand w).errcode = s.errcode := rfl
@[simp] theorem State.loadCommand_cmd (s : State) (w : BusWord) : (s.loadCommand w).cmd = w := rfl
@[simp] theorem State.loadCommand_pending (s : State) (w : BusWord) :
    (s.loadCommand w).pending = some ⟨w, s.regs⟩ := rfl
@[simp] theorem State.loadCommand_events (s : State) (w : BusWord) :
    (s.loadCommand w).events = .complete :: s.events := rfl
@[simp] theorem State.loadCommand_port (s : State) (w : BusWord) : (s.loadCommand w).port = s.port := rfl
@[simp] theorem State.loadCommand_draws (s : State) (w : BusWord) : (s.loadCommand w).draws = s.draws := rfl

/-! ### Status and flags -/

@[simp] theorem Status.writeOneToClear_busy (t : Status) (v : BusWord) : (t.writeOneToClear v).busy = t.busy := rfl
@[simp] theorem Status.writeOneToClear_done (t : Status) (v : BusWord) :
    (t.writeOneToClear v).done = (t.done && !v.getLsbD 1) := rfl
@[simp] theorem Status.writeOneToClear_err (t : Status) (v : BusWord) :
    (t.writeOneToClear v).err = (t.err && !v.getLsbD 2) := rfl
@[simp] theorem Status.writeOneToClear_ovr (t : Status) (v : BusWord) :
    (t.writeOneToClear v).ovr = (t.ovr && !v.getLsbD 3) := rfl
@[simp] theorem Flags.setZ_z (f : Flags) (b : Bool) : (f.setZ b).z = b := rfl
@[simp] theorem Flags.setZ_eq (f : Flags) (b : Bool) : (f.setZ b).eq = f.eq := rfl
@[simp] theorem Flags.setZ_lt (f : Flags) (b : Bool) : (f.setZ b).lt = f.lt := rfl
@[simp] theorem Flags.setZ_none (f : Flags) (b : Bool) : (f.setZ b).none = f.none := rfl
@[simp] theorem Flags.setCmp_z (f : Flags) (e l : Bool) : (f.setCmp e l).z = f.z := rfl
@[simp] theorem Flags.setCmp_eq (f : Flags) (e l : Bool) : (f.setCmp e l).eq = e := rfl
@[simp] theorem Flags.setCmp_lt (f : Flags) (e l : Bool) : (f.setCmp e l).lt = l := rfl
@[simp] theorem Flags.setCmp_none (f : Flags) (e l : Bool) : (f.setCmp e l).none = f.none := rfl
@[simp] theorem Flags.setNone_z (f : Flags) (b : Bool) : (f.setNone b).z = f.z := rfl
@[simp] theorem Flags.setNone_eq (f : Flags) (b : Bool) : (f.setNone b).eq = f.eq := rfl
@[simp] theorem Flags.setNone_lt (f : Flags) (b : Bool) : (f.setNone b).lt = f.lt := rfl
@[simp] theorem Flags.setNone_none (f : Flags) (b : Bool) : (f.setNone b).none = b := rfl

/-! ### Data registers -/

@[simp] theorem getReg_setReg_self (v : Regs) (r : Reg) (x : Word) : getReg (setReg v r x) r = x := by
  simp [getReg, setReg]

theorem getReg_setReg_of_ne (v : Regs) (r q : Reg) (x : Word) (h : q ≠ r) :
    getReg (setReg v r x) q = getReg v q := by
  have : r.val ≠ q.val := fun e => h (Fin.ext e.symm)
  simp [getReg, setReg, this]

theorem getReg_setReg (v : Regs) (r q : Reg) (x : Word) :
    getReg (setReg v r x) q = if q = r then x else getReg v q := by
  by_cases h : q = r
  · subst h; simp
  · simp [h, getReg_setReg_of_ne v r q x h]

theorem succ_ne_self (r : Reg) : r + 1 ≠ r := by revert r; decide

@[simp] theorem getPair_setPair_self (v : Regs) (r : Reg) (q : Point) : getPair (setPair v r q) r = q := by
  simp [getPair, setPair, getReg_setReg, (succ_ne_self r).symm]

theorem getReg_setPair_of_ne (v : Regs) (r q : Reg) (pt : Point) (h : q ≠ r) (h' : q ≠ r + 1) :
    getReg (setPair v r pt) q = getReg v q := by
  simp [setPair, getReg_setReg, h, h']

/-- Two register files that agree on every register are equal. -/
theorem regs_ext (v w : Regs) (h : ∀ r : Reg, getReg v r = getReg w r) : v = w := by
  apply Vector.ext
  intro i hi
  exact h ⟨i, hi⟩

@[simp] theorem getReg_reset (r : Reg) : getReg (Vector.replicate 16 0#256) r = 0#256 := by
  simp [getReg]

theorem snapshot_of_pending (s : State) (f : InFlight) (h : s.pending = some f) : s.snapshot = f.snap := by
  simp [State.snapshot, h]

theorem snapshot_of_idle (s : State) (h : s.pending = none) : s.snapshot = s.regs := by
  simp [State.snapshot, h]

end Sys2Proof.Machine
end

