-- ==== Sys2Proof/Laws/Ops.lean ====
section
/-! SUPPORT. What each shared operation can do, said once; provers cite these instead of unfolding the operations. -/

namespace Sys2Proof.Machine

/-- Everything a command can do (R93, R203): it raises an error, or completes with some registers and flags. -/
inductive CommandEffect (s : State) : Result → Prop where
  | error (o : OutcomeCode) (h : o ≠ .ok) : CommandEffect s (.next (s.fail o))
  | ok (regs : Regs) (flags : Flags) : CommandEffect s (.next (s.completeOk regs flags))

theorem raise_effect (o : OutcomeCode) (s : State) (h : o ≠ .ok) : CommandEffect s (raise o s) := .error o h
theorem writeNothing_effect (s : State) : CommandEffect s (writeNothing s) := .ok _ _
theorem writeReg_effect (rd : Reg) (v : Word) (s : State) : CommandEffect s (writeReg rd v s) := .ok _ _
theorem writePair_effect (rd : Reg) (q : Point) (s : State) : CommandEffect s (writePair rd q s) := .ok _ _
theorem writeFlags_effect (f : Flags) (s : State) : CommandEffect s (writeFlags f s) := .ok _ _
theorem writeRegPassed_effect (rd : Reg) (v : Word) (s : State) : CommandEffect s (writeRegPassed rd v s) := .ok _ _
theorem writePairPassed_effect (rd : Reg) (q : Point) (s : State) : CommandEffect s (writePairPassed rd q s) := .ok _ _

/-- A choice between two results has one of the two effects. -/
theorem ite_effect {s : State} {c : Prop} [Decidable c] {r r' : Result} (h : CommandEffect s r)
    (h' : CommandEffect s r') : CommandEffect s (if c then r else r') := by
  split <;> assumption

/-- A command over point pairs: its body, or ILLEGAL (R82). -/
theorem withPairs_effect (pairs : List Reg) (s : State) (body : State → Result) (h : CommandEffect s (body s)) :
    CommandEffect s (withPairs pairs s body) := by
  unfold withPairs
  exact ite_effect h (raise_effect _ _ (by decide))

theorem withPairs_of_even (pairs : List Reg) (s : State) (body : State → Result) (h : pairs.all Reg.isPair = true) :
    withPairs pairs s body = body s := by
  simp [withPairs, h]

theorem withPairs_of_odd (pairs : List Reg) (s : State) (body : State → Result) (h : pairs.all Reg.isPair = false) :
    withPairs pairs s body = raise .illegal s := by
  simp [withPairs, h]

/-- Every command raises an error or completes, and does nothing else. -/
theorem exec_effect (i : Instr) (s : State) : CommandEffect s (exec i s) := by
  cases i with
  | nop => exact writeNothing_effect s
  | mov rd ra => exact writeReg_effect _ _ _
  | ldi rd imm16 => exact writeReg_effect _ _ _
  | ldc rd imm16 =>
    show CommandEffect s (execLdc rd imm16 s)
    unfold execLdc
    split
    · exact writeReg_effect _ _ _
    · exact raise_effect _ _ (by decide)
  | fred rd ra => exact writeReg_effect _ _ _
  | fchk rd ra => exact ite_effect (writeRegPassed_effect _ _ _) (writeFlags_effect _ _)
  | fadd rd ra rb => exact ite_effect (writeReg_effect _ _ _) (raise_effect _ _ (by decide))
  | fsub rd ra rb => exact ite_effect (writeReg_effect _ _ _) (raise_effect _ _ (by decide))
  | fneg rd ra => exact ite_effect (writeReg_effect _ _ _) (raise_effect _ _ (by decide))
  | fmul rd ra rb => exact ite_effect (writeReg_effect _ _ _) (raise_effect _ _ (by decide))
  | fmuls rd ra rb => exact ite_effect (writeReg_effect _ _ _) (raise_effect _ _ (by decide))
  | finv rd ra =>
    exact ite_effect (ite_effect (raise_effect _ _ (by decide)) (writeReg_effect _ _ _)) (raise_effect _ _ (by decide))
  | fdiv rd ra rb =>
    exact ite_effect (ite_effect (raise_effect _ _ (by decide)) (writeReg_effect _ _ _)) (raise_effect _ _ (by decide))
  | fisz ra => exact writeFlags_effect _ _
  | fcmp ra rb => exact writeFlags_effect _ _
  | pchk rd ra =>
    show CommandEffect s (execPchk rd ra s)
    unfold execPchk
    refine withPairs_effect _ _ _ ?_
    exact ite_effect (writePairPassed_effect _ _ _) (writeFlags_effect _ _)
  | padd rd ra rb =>
    show CommandEffect s (execPadd rd ra rb s)
    unfold execPadd
    refine withPairs_effect _ _ _ ?_
    exact ite_effect (writePair_effect _ _ _) (raise_effect _ _ (by decide))
  | pdbl rd ra =>
    show CommandEffect s (execPdbl rd ra s)
    unfold execPdbl
    refine withPairs_effect _ _ _ ?_
    exact ite_effect (writePair_effect _ _ _) (raise_effect _ _ (by decide))
  | pneg rd ra =>
    show CommandEffect s (execPneg rd ra s)
    unfold execPneg
    refine withPairs_effect _ _ _ ?_
    exact ite_effect (writePair_effect _ _ _) (raise_effect _ _ (by decide))
  | pmul rd ra rb =>
    show CommandEffect s (execPmul rd ra rb s)
    unfold execPmul
    refine withPairs_effect _ _ _ ?_
    exact ite_effect (writePair_effect _ _ _) (raise_effect _ _ (by decide))
  | pisinf ra => exact withPairs_effect _ _ _ (writeFlags_effect _ _)
  | pcmp ra rb => exact withPairs_effect _ _ _ (writeFlags_effect _ _)
  | sinv rd ra =>
    show CommandEffect s (execSinv rd ra s)
    unfold execSinv
    split
    · exact writeReg_effect _ _ _
    · exact raise_effect _ _ (by decide)

/-- Everything the engine's step can do: nothing when idle, else an error or a completion. -/
theorem engineStep_effect (s : State) :
    s.pending = none ∧ engineStep s = .next s ∨ s.pending ≠ none ∧ CommandEffect s (engineStep s) := by
  unfold engineStep
  cases h : s.pending with
  | none => simp
  | some f =>
    right
    refine ⟨by simp, ?_⟩
    simp only
    cases decode f.word with
    | ok i => exact exec_effect i s
    | error e => exact raise_effect _ _ (by decide)

/-- Everything a legal write can do to the block. -/
inductive WriteEffect (s : State) (w : BusWord) : Target → State → Prop where
  | ignored (t : Target) (h : t = .id ∨ t = .errcode ∨ t = .flags ∨ t = .reserved) : WriteEffect s w t s
  | softReset (h : w.getLsbD 1 = true) : WriteEffect s w .ctrl s.resetBlock
  | enable (h : w.getLsbD 1 = false) : WriteEffect s w .ctrl { s with ie := w.getLsbD 0 }
  | status : WriteEffect s w .status (s.writeStatus w)
  | accepted (h : s.status.busy = false) : WriteEffect s w .cmd (s.accept w)
  | cmdDropped (h : s.status.busy = true) : WriteEffect s w .cmd s.dropWrite
  | windowDropped (i : Reg) (j : Fin 8) (h : s.status.busy = true) : WriteEffect s w (.window i j) s.dropWrite
  | window (i : Reg) (j : Fin 8) (h : s.status.busy = false) :
      WriteEffect s w (.window i j) { s with regs := setReg s.regs i (replaceWord (getReg s.regs i) j w) }

theorem writeTarget_effect (s : State) (w : BusWord) (t : Target) : WriteEffect s w t (s.writeTarget w t) := by
  cases t with
  | id => exact .ignored _ (.inl rfl)
  | errcode => exact .ignored _ (.inr (.inl rfl))
  | flags => exact .ignored _ (.inr (.inr (.inl rfl)))
  | reserved => exact .ignored _ (.inr (.inr (.inr rfl)))
  | ctrl =>
    show WriteEffect s w .ctrl (if w.getLsbD 1 = true then s.resetBlock else { s with ie := w.getLsbD 0 })
    split
    · exact .softReset ‹_›
    · exact .enable (by simpa using ‹¬ w.getLsbD 1 = true›)
  | status => exact .status
  | cmd =>
    show WriteEffect s w .cmd (if s.status.busy = true then s.dropWrite else s.accept w)
    split
    · exact .cmdDropped ‹_›
    · exact .accepted (by simpa using ‹¬ s.status.busy = true›)
  | window i j =>
    show WriteEffect s w (.window i j) (if s.status.busy = true then s.dropWrite
      else { s with regs := setReg s.regs i (replaceWord (getReg s.regs i) j w) })
    split
    · exact .windowDropped i j ‹_›
    · exact .window i j (by simpa using ‹¬ s.status.busy = true›)

/-- A write leaves the schedule, the bus response and the draw count to the step (R50). -/
theorem WriteEffect.own_fields {s t : State} {w : BusWord} {d : Target} (h : WriteEffect s w d t) :
    t.events = s.events ∧ t.port = s.port ∧ t.draws = s.draws := by
  cases h <;> exact ⟨rfl, rfl, rfl⟩

/-- Everything a host transaction can do: a read or a bus error touches the bus response and the draw count only; a
legal write has its target's effect. -/
theorem transact_cases (s : State) (a : Access) :
    (∃ port draws, s.transact a = { s with port := port, draws := draws }) ∨
    (∃ off w t, a = .write off 4 w ∧ off.toNat % 4 = 0 ∧ WriteEffect s w (target off) t ∧
      s.transact a = { t with port := .ack }) := by
  cases a with
  | read off size =>
    left
    by_cases h : legalAccess off size = true
    · simp only [State.transact, h, if_true]
      exact ⟨_, _, rfl⟩
    · simp only [State.transact, h]
      exact ⟨_, _, rfl⟩
  | write off size w =>
    by_cases h : legalAccess off size = true
    · right
      refine ⟨off, w, s.writeTarget w (target off), ?_, ?_, writeTarget_effect s w (target off), ?_⟩
      · simp_all [legalAccess]
      · simp_all [legalAccess]
      · simp only [State.transact, h, if_true]
    · left
      simp only [State.transact, h]
      exact ⟨_, _, rfl⟩

@[simp] theorem State.transact_events (s : State) (a : Access) : (s.transact a).events = s.events := by
  obtain ⟨port, draws, h⟩ | ⟨off, w, t, -, -, h, e⟩ := transact_cases s a
  · rw [h]
  · rw [e]; exact h.own_fields.1

@[simp] theorem hostStep_eq (a : Access) (s : State) : hostStep a s = .next (s.transact a) := rfl
@[simp] theorem andThen_next (s : State) (k : State → Result) : andThen (.next s) k = k s := rfl

theorem step_of_event (s : State) (e : Event) (rest : List Event) (h : s.events = e :: rest) :
    step s = runEvent e { s with events := rest } := by
  simp [step, nextEvent, h]

theorem step_of_no_event (s : State) (h : s.events = []) : step s = engineStep s := by
  simp [step, nextEvent, h]

end Sys2Proof.Machine
end

