-- ==== Sys2Proof/Laws/PerInstr.lean ====
section
/-! SUPPORT. Facts about every instruction as syntax, one lemma per constructor. -/

/-- The opcode of an encoded command stands in bits 31:24 of its word (R80, R85). -/
def Sys2Proof.Laws.OpcodeField.Statement (i : Sys2Proof.Instr) : Prop :=
  Sys2Proof.opField (Sys2Proof.encode i) = i.opcode

namespace Sys2Proof.Laws.OpcodeField

open Sys2Proof

theorem nop : Statement .nop := by simp [Statement, encode]
theorem mov (rd ra : Reg) : Statement (.mov rd ra) := by simp [Statement, encode]
theorem ldi (rd : Reg) (imm16 : BitVec 16) : Statement (.ldi rd imm16) := by simp [Statement, encode]
theorem ldc (rd : Reg) (imm16 : BitVec 16) : Statement (.ldc rd imm16) := by simp [Statement, encode]
theorem fred (rd ra : Reg) : Statement (.fred rd ra) := by simp [Statement, encode]
theorem fchk (rd ra : Reg) : Statement (.fchk rd ra) := by simp [Statement, encode]
theorem fadd (rd ra rb : Reg) : Statement (.fadd rd ra rb) := by simp [Statement, encode]
theorem fsub (rd ra rb : Reg) : Statement (.fsub rd ra rb) := by simp [Statement, encode]
theorem fneg (rd ra : Reg) : Statement (.fneg rd ra) := by simp [Statement, encode]
theorem fmul (rd ra rb : Reg) : Statement (.fmul rd ra rb) := by simp [Statement, encode]
theorem fmuls (rd ra rb : Reg) : Statement (.fmuls rd ra rb) := by simp [Statement, encode]
theorem finv (rd ra : Reg) : Statement (.finv rd ra) := by simp [Statement, encode]
theorem fdiv (rd ra rb : Reg) : Statement (.fdiv rd ra rb) := by simp [Statement, encode]
theorem fisz (ra : Reg) : Statement (.fisz ra) := by simp [Statement, encode]
theorem fcmp (ra rb : Reg) : Statement (.fcmp ra rb) := by simp [Statement, encode]
theorem pchk (rd ra : Reg) : Statement (.pchk rd ra) := by simp [Statement, encode]
theorem padd (rd ra rb : Reg) : Statement (.padd rd ra rb) := by simp [Statement, encode]
theorem pdbl (rd ra : Reg) : Statement (.pdbl rd ra) := by simp [Statement, encode]
theorem pneg (rd ra : Reg) : Statement (.pneg rd ra) := by simp [Statement, encode]
theorem pmul (rd ra rb : Reg) : Statement (.pmul rd ra rb) := by simp [Statement, encode]
theorem pisinf (ra : Reg) : Statement (.pisinf ra) := by simp [Statement, encode]
theorem pcmp (ra rb : Reg) : Statement (.pcmp ra rb) := by simp [Statement, encode]
theorem sinv (rd ra : Reg) : Statement (.sinv rd ra) := by simp [Statement, encode]

end Sys2Proof.Laws.OpcodeField
end

