-- ==== Sys2Proof/Laws/Primes.lean ====
section
/-! SUPPORT. p and n (R27) are prime, by certificates: R106 and R142 rest on the first; R147 marks the second as general
knowledge. -/

namespace Sys2Proof.Machine

/-- Modular exponentiation by squaring, with fuel for the exponent's bits. -/
def powMod (m : Nat) : Nat → Nat → Nat → Nat
  | 0, _, _ => 1 % m
  | f + 1, b, e =>
    if e = 0 then 1 % m
    else if e % 2 = 1 then b * powMod m f (b * b % m) (e / 2) % m else powMod m f (b * b % m) (e / 2)

theorem powMod_eq (m : Nat) : ∀ f b e : Nat, e < 2 ^ f → powMod m f b e = b ^ e % m := by
  intro f
  induction f with
  | zero =>
    intro b e h
    obtain rfl : e = 0 := by simpa using h
    simp [powMod]
  | succ f ih =>
    intro b e h
    rw [powMod]
    split
    · rename_i h0; simp [h0]
    · have hlt : e / 2 < 2 ^ f := by rw [pow_succ] at h; omega
      rw [ih _ _ hlt]
      have hsq : (b * b % m) ^ (e / 2) % m = b ^ (2 * (e / 2)) % m := by
        rw [← Nat.pow_mod, pow_mul, pow_two]
      split
      · rename_i h1
        rw [Nat.mul_mod, Nat.mod_mod, ← Nat.mul_mod, Nat.mul_mod, hsq, ← Nat.mul_mod, ← pow_succ']
        congr 2; omega
      · rw [hsq]; congr 2; omega

/-- A certificate: the prime factors of `p - 1`, and a base of order `p - 1` (checked on numbers). -/
def certifies (p a : Nat) (qs : List Nat) : Bool :=
  decide (1 < p) && decide (p < 2 ^ 256) && qs.prod == p - 1 && powMod p 256 a (p - 1) == 1 &&
    qs.all (fun q => powMod p 256 a ((p - 1) / q) != 1)

theorem prime_of_certificate (p a : Nat) (qs : List Nat) (hq : ∀ q ∈ qs, Nat.Prime q)
    (h : certifies p a qs = true) : Nat.Prime p := by
  simp only [certifies, Bool.and_eq_true, decide_eq_true_eq, beq_iff_eq, List.all_eq_true, bne_iff_ne] at h
  obtain ⟨⟨⟨⟨h1, h2⟩, hprod⟩, hpow⟩, hne⟩ := h
  have key : ∀ e : Nat, e < 2 ^ 256 → (((a : ZMod p) ^ e = 1) ↔ powMod p 256 a e = 1) := by
    intro e he
    rw [powMod_eq p 256 a e he, ← Nat.cast_pow, ← Nat.cast_one, ZMod.natCast_eq_natCast_iff', Nat.mod_eq_of_lt h1]
  refine lucas_primality p (a : ZMod p) ((key _ (by omega)).2 hpow) ?_
  intro q hqp hdvd
  rw [← hprod] at hdvd
  obtain ⟨r, hr, hqr⟩ := (Prime.dvd_prod_iff hqp.prime).1 hdvd
  obtain rfl : q = r := (Nat.prime_dvd_prime_iff_eq hqp (hq r hr)).1 hqr
  have hlt : (p - 1) / q < 2 ^ 256 := lt_of_le_of_lt (Nat.div_le_self _ _) (by omega)
  rw [Ne, key _ hlt]
  exact hne q hr

theorem prime_13331831 : Nat.Prime 13331831 := by
  refine prime_of_certificate _ 13
    [2, 5, 971, 1373] ?_ (by decide +kernel)
  simp only [List.forall_mem_cons, List.not_mem_nil, false_imp_iff, implies_true, and_true]
  exact ⟨by norm_num, by norm_num, by norm_num, by norm_num⟩

theorem prime_173378833005251801 : Nat.Prime 173378833005251801 := by
  refine prime_of_certificate _ 6
    [2, 2, 2, 5, 5, 2621, 24809, 13331831] ?_ (by decide +kernel)
  simp only [List.forall_mem_cons, List.not_mem_nil, false_imp_iff, implies_true, and_true]
  exact ⟨by norm_num, by norm_num, by norm_num, by norm_num, by norm_num, by norm_num, by norm_num, prime_13331831⟩

theorem prime_22149492674086928081353 : Nat.Prime 22149492674086928081353 := by
  refine prime_of_certificate _ 5
    [2, 2, 2, 3, 5323, 173378833005251801] ?_ (by decide +kernel)
  simp only [List.forall_mem_cons, List.not_mem_nil, false_imp_iff, implies_true, and_true]
  exact ⟨by norm_num, by norm_num, by norm_num, by norm_num, by norm_num, prime_173378833005251801⟩

theorem prime_132896956044521568488119 : Nat.Prime 132896956044521568488119 := by
  refine prime_of_certificate _ 6
    [2, 3, 22149492674086928081353] ?_ (by decide +kernel)
  simp only [List.forall_mem_cons, List.not_mem_nil, false_imp_iff, implies_true, and_true]
  exact ⟨by norm_num, by norm_num, prime_22149492674086928081353⟩

theorem prime_107590001 : Nat.Prime 107590001 := by
  refine prime_of_certificate _ 3
    [2, 2, 2, 2, 5, 5, 5, 5, 7, 29, 53] ?_ (by decide +kernel)
  simp only [List.forall_mem_cons, List.not_mem_nil, false_imp_iff, implies_true, and_true]
  exact ⟨by norm_num, by norm_num, by norm_num, by norm_num, by norm_num, by norm_num, by norm_num, by norm_num, by norm_num, by norm_num, by norm_num⟩

theorem prime_1206781 : Nat.Prime 1206781 := by
  refine prime_of_certificate _ 10
    [2, 2, 3, 5, 20113] ?_ (by decide +kernel)
  simp only [List.forall_mem_cons, List.not_mem_nil, false_imp_iff, implies_true, and_true]
  exact ⟨by norm_num, by norm_num, by norm_num, by norm_num, by norm_num⟩

theorem prime_7240687 : Nat.Prime 7240687 := by
  refine prime_of_certificate _ 3
    [2, 3, 1206781] ?_ (by decide +kernel)
  simp only [List.forall_mem_cons, List.not_mem_nil, false_imp_iff, implies_true, and_true]
  exact ⟨by norm_num, by norm_num, prime_1206781⟩

theorem prime_255515944373312847190720520512484175977 : Nat.Prime 255515944373312847190720520512484175977 := by
  refine prime_of_certificate _ 3
    [2, 2, 2, 7, 7, 11, 1627, 2657, 4423, 41201, 96557, 7240687, 107590001] ?_ (by decide +kernel)
  simp only [List.forall_mem_cons, List.not_mem_nil, false_imp_iff, implies_true, and_true]
  exact ⟨by norm_num, by norm_num, by norm_num, by norm_num, by norm_num, by norm_num, by norm_num, by norm_num, by norm_num, by norm_num, by norm_num, prime_7240687, prime_107590001⟩

theorem prime_205115282021455665897114700593932402728804164701536103180137503955397371 : Nat.Prime 205115282021455665897114700593932402728804164701536103180137503955397371 := by
  refine prime_of_certificate _ 10
    [2, 3, 5, 29, 29, 31, 7723, 132896956044521568488119, 255515944373312847190720520512484175977] ?_ (by decide +kernel)
  simp only [List.forall_mem_cons, List.not_mem_nil, false_imp_iff, implies_true, and_true]
  exact ⟨by norm_num, by norm_num, by norm_num, by norm_num, by norm_num, by norm_num, by norm_num, prime_132896956044521568488119, prime_255515944373312847190720520512484175977⟩

theorem prime_P : Nat.Prime P.toNat := by
  rw [P_toNat]
  refine prime_of_certificate _ 3
    [2, 3, 7, 13441, 205115282021455665897114700593932402728804164701536103180137503955397371] ?_ (by decide +kernel)
  simp only [List.forall_mem_cons, List.not_mem_nil, false_imp_iff, implies_true, and_true]
  exact ⟨by norm_num, by norm_num, by norm_num, by norm_num, prime_205115282021455665897114700593932402728804164701536103180137503955397371⟩

theorem prime_4681609 : Nat.Prime 4681609 := by
  refine prime_of_certificate _ 23
    [2, 2, 2, 3, 97, 2011] ?_ (by decide +kernel)
  simp only [List.forall_mem_cons, List.not_mem_nil, false_imp_iff, implies_true, and_true]
  exact ⟨by norm_num, by norm_num, by norm_num, by norm_num, by norm_num, by norm_num⟩

theorem prime_107361793816595537 : Nat.Prime 107361793816595537 := by
  refine prime_of_certificate _ 3
    [2, 2, 2, 2, 16699, 85831, 4681609] ?_ (by decide +kernel)
  simp only [List.forall_mem_cons, List.not_mem_nil, false_imp_iff, implies_true, and_true]
  exact ⟨by norm_num, by norm_num, by norm_num, by norm_num, by norm_num, by norm_num, prime_4681609⟩

theorem prime_44706919 : Nat.Prime 44706919 := by
  refine prime_of_certificate _ 6
    [2, 3, 797, 9349] ?_ (by decide +kernel)
  simp only [List.forall_mem_cons, List.not_mem_nil, false_imp_iff, implies_true, and_true]
  exact ⟨by norm_num, by norm_num, by norm_num, by norm_num⟩

theorem prime_174723607534414371449 : Nat.Prime 174723607534414371449 := by
  refine prime_of_certificate _ 3
    [2, 2, 2, 17, 59, 4051, 120233, 44706919] ?_ (by decide +kernel)
  simp only [List.forall_mem_cons, List.not_mem_nil, false_imp_iff, implies_true, and_true]
  exact ⟨by norm_num, by norm_num, by norm_num, by norm_num, by norm_num, by norm_num, by norm_num, prime_44706919⟩

theorem prime_1627771 : Nat.Prime 1627771 := by
  refine prime_of_certificate _ 3
    [2, 3, 5, 29, 1871] ?_ (by decide +kernel)
  simp only [List.forall_mem_cons, List.not_mem_nil, false_imp_iff, implies_true, and_true]
  exact ⟨by norm_num, by norm_num, by norm_num, by norm_num, by norm_num⟩

theorem prime_297159362677 : Nat.Prime 297159362677 := by
  refine prime_of_certificate _ 2
    [2, 2, 3, 3, 11, 461, 1627771] ?_ (by decide +kernel)
  simp only [List.forall_mem_cons, List.not_mem_nil, false_imp_iff, implies_true, and_true]
  exact ⟨by norm_num, by norm_num, by norm_num, by norm_num, by norm_num, by norm_num, prime_1627771⟩

theorem prime_545358713 : Nat.Prime 545358713 := by
  refine prime_of_certificate _ 5
    [2, 2, 2, 41, 59, 28181] ?_ (by decide +kernel)
  simp only [List.forall_mem_cons, List.not_mem_nil, false_imp_iff, implies_true, and_true]
  exact ⟨by norm_num, by norm_num, by norm_num, by norm_num, by norm_num, by norm_num⟩

theorem prime_29047611873442575647497758179 : Nat.Prime 29047611873442575647497758179 := by
  refine prime_of_certificate _ 2
    [2, 293, 305873, 545358713, 297159362677] ?_ (by decide +kernel)
  simp only [List.forall_mem_cons, List.not_mem_nil, false_imp_iff, implies_true, and_true]
  exact ⟨by norm_num, by norm_num, by norm_num, prime_545358713, prime_297159362677⟩

theorem prime_341948486974166000522343609283189 : Nat.Prime 341948486974166000522343609283189 := by
  refine prime_of_certificate _ 2
    [2, 2, 3, 3, 3, 109, 29047611873442575647497758179] ?_ (by decide +kernel)
  simp only [List.forall_mem_cons, List.not_mem_nil, false_imp_iff, implies_true, and_true]
  exact ⟨by norm_num, by norm_num, by norm_num, by norm_num, by norm_num, by norm_num, prime_29047611873442575647497758179⟩

theorem prime_N : Nat.Prime N.toNat := by
  rw [N_toNat]
  refine prime_of_certificate _ 7
    [2, 2, 2, 2, 2, 2, 3, 149, 631, 107361793816595537, 174723607534414371449, 341948486974166000522343609283189] ?_ (by decide +kernel)
  simp only [List.forall_mem_cons, List.not_mem_nil, false_imp_iff, implies_true, and_true]
  exact ⟨by norm_num, by norm_num, by norm_num, by norm_num, by norm_num, by norm_num, by norm_num, by norm_num, by norm_num, prime_107361793816595537, prime_174723607534414371449, prime_341948486974166000522343609283189⟩

end Sys2Proof.Machine
end

