-- ==== Sys2Proof/Tests/Slice0.lean ====
section
/-! SUPPORT. Tests: expected values are those of spec/95_test_vectors.md, cited by their ids, or written out from the
encodings of 30_encoding.md. After them, a witness for the hypotheses of each statement. -/

namespace Sys2Proof.Tests

open Sys2Proof Sys2Proof.Machine Sys2Proof.Stated

/-! ### Helpers -/

/-- The reset state with some registers loaded. -/
def load (vs : List (Reg × Word)) : State :=
  { State.reset with regs := vs.foldl (fun v rx => setReg v rx.1 rx.2) State.reset.regs }

/-- The loaded registers with a command word in flight, its completion the next event. -/
def fetch (vs : List (Reg × Word)) (w : Nat) : State := (load vs).withFetchWord 32 w

/-- What one step answers on them. -/
def run (vs : List (Reg × Word)) (w : Nat) : Result := step (fetch vs w)

/-- Register `r` and ERRCODE after a step. -/
def regOf (o : Result) (r : Reg) : Option (Word × BitVec 8) :=
  match o with
  | .next s => some (getReg s.regs r, s.errcode)
  | _ => none

/-- The pair at `r` and ERRCODE after a step. -/
def pairOf (o : Result) (r : Reg) : Option (Point × BitVec 8) :=
  match o with
  | .next s => some (getPair s.regs r, s.errcode)
  | _ => none

/-- FLAGS and ERRCODE after a step. -/
def flagsOf (o : Result) : Option (BusWord × BitVec 8) :=
  match o with
  | .next s => some (s.flags.word, s.errcode)
  | _ => none

/-- The state after a run of the machine, from reset, over a schedule. -/
def script (es : List Event) : Result := Host.Core.run Sys2Proof.core es.length { State.reset with events := es }

/-- STATUS, ERRCODE and CMD at the end of a run. -/
def statusOf (o : Result) : Option (BusWord × BitVec 8 × BusWord) :=
  match o with
  | .next s => some (s.status.word, s.errcode, s.cmd)
  | _ => none

/-- The last bus response of a run. -/
def portOf (o : Result) : Option PortResponse :=
  match o with
  | .next s => some s.port
  | _ => none

def R (off : Offset) : Event := .host (.read off 4)
def W (off : Offset) (v : BusWord) : Event := .host (.write off 4 v)

def pMinus1 : Word := 0xFFFFFFFFFFFFFFFFFFFFFFFFFFFFFFFFFFFFFFFFFFFFFFFFFFFFFFFEFFFFFC2E#256
def allOnes : Word := 0xFFFFFFFFFFFFFFFFFFFFFFFFFFFFFFFFFFFFFFFFFFFFFFFFFFFFFFFFFFFFFFFF#256
def negGY : Word := 0xB7C52588D95C3B9AA25B0403F1EEF75702E84BB7597AABE663B82F6F04EF2777#256
def G2 : Point :=
  ⟨0xC6047F9441ED7D6D3045406E95C07CD85C778E4B8CEF3CA7ABAC09B95C709EE5#256,
    0x1AE168FEA63DC339A3C58419466CEAEEF7F632653266D0E1236431A950CFE52A#256⟩
def G3 : Point :=
  ⟨0xF9308A019258C31049344F85F89D5229B531C845836F99B08601F113BCE036F9#256,
    0x388F7B0F632DE8140FE337E62A37F3566500A99934C2231B6CB9FD7584B8E672#256⟩
/-- A y with (1, y) on the curve (R150). -/
def Y1 : Word := 0x4218F20AE6C646B363DB68605822FB14264CA8D2587FDD6FBC750D587E76A7EE#256

/-! ### WellFormed: an ill-formed term for each check -/

theorem test_wf_ldc : (Instr.ldc 0 7#16).wellFormed = false := by decide
theorem test_wf_pchk_rd : (Instr.pchk 1 0).wellFormed = false := by decide
theorem test_wf_pchk_ra : (Instr.pchk 0 15).wellFormed = false := by decide
theorem test_wf_padd_rd : (Instr.padd 1 0 0).wellFormed = false := by decide
theorem test_wf_padd_ra : (Instr.padd 0 3 0).wellFormed = false := by decide
theorem test_wf_padd_rb : (Instr.padd 0 0 5).wellFormed = false := by decide
theorem test_wf_pdbl_rd : (Instr.pdbl 7 0).wellFormed = false := by decide
theorem test_wf_pdbl_ra : (Instr.pdbl 0 7).wellFormed = false := by decide
theorem test_wf_pneg_rd : (Instr.pneg 9 0).wellFormed = false := by decide
theorem test_wf_pneg_ra : (Instr.pneg 0 9).wellFormed = false := by decide
theorem test_wf_pmul_rd : (Instr.pmul 11 0 0).wellFormed = false := by decide
theorem test_wf_pmul_ra : (Instr.pmul 0 11 0).wellFormed = false := by decide
theorem test_wf_pisinf : (Instr.pisinf 13).wellFormed = false := by decide
theorem test_wf_pcmp_ra : (Instr.pcmp 1 0).wellFormed = false := by decide
theorem test_wf_pcmp_rb : (Instr.pcmp 0 1).wellFormed = false := by decide

/-! ### Decode: a word written out from R81, R83 and R85 for every constructor -/

theorem test_decode_nop : decode (0x00#8 ++ 0b0000#4 ++ 0b0000#4 ++ 0b0000#4 ++ 0#12) = .ok .nop := by decide
theorem test_decode_mov : decode (0x01#8 ++ 0b0111#4 ++ 0b0011#4 ++ 0b0000#4 ++ 0#12) = .ok (.mov 7 3) := by decide
theorem test_decode_ldi : decode (0x02#8 ++ 0b0100#4 ++ 0b0000#4 ++ 0xFFFF#16) = .ok (.ldi 4 0xFFFF#16) := by decide
theorem test_decode_ldc : decode (0x03#8 ++ 0b0001#4 ++ 0b0000#4 ++ 6#16) = .ok (.ldc 1 6#16) := by decide
theorem test_decode_fred : decode (0x10#8 ++ 0b0011#4 ++ 0b0001#4 ++ 0b0000#4 ++ 0#12) = .ok (.fred 3 1) := by decide
theorem test_decode_fchk : decode (0x11#8 ++ 0b0011#4 ++ 0b0001#4 ++ 0b0000#4 ++ 0#12) = .ok (.fchk 3 1) := by decide
theorem test_decode_fadd : decode (0x12#8 ++ 0b0011#4 ++ 0b0001#4 ++ 0b0010#4 ++ 0#12) = .ok (.fadd 3 1 2) := by decide
theorem test_decode_fsub : decode (0x13#8 ++ 0b0011#4 ++ 0b0001#4 ++ 0b0010#4 ++ 0#12) = .ok (.fsub 3 1 2) := by decide
theorem test_decode_fneg : decode (0x14#8 ++ 0b0011#4 ++ 0b0001#4 ++ 0b0000#4 ++ 0#12) = .ok (.fneg 3 1) := by decide
theorem test_decode_fmul : decode (0x15#8 ++ 0b0011#4 ++ 0b0001#4 ++ 0b0010#4 ++ 0#12) = .ok (.fmul 3 1 2) := by decide
theorem test_decode_fmuls : decode (0x16#8 ++ 0b0011#4 ++ 0b0001#4 ++ 0b0010#4 ++ 0#12) = .ok (.fmuls 3 1 2) := by
  decide
theorem test_decode_finv : decode (0x17#8 ++ 0b0011#4 ++ 0b0001#4 ++ 0b0000#4 ++ 0#12) = .ok (.finv 3 1) := by decide
theorem test_decode_fdiv : decode (0x18#8 ++ 0b0011#4 ++ 0b0001#4 ++ 0b0010#4 ++ 0#12) = .ok (.fdiv 3 1 2) := by decide
theorem test_decode_fisz : decode (0x19#8 ++ 0b0000#4 ++ 0b0011#4 ++ 0b0000#4 ++ 0#12) = .ok (.fisz 3) := by decide
theorem test_decode_fcmp : decode (0x1A#8 ++ 0b0000#4 ++ 0b0001#4 ++ 0b0010#4 ++ 0#12) = .ok (.fcmp 1 2) := by decide
theorem test_decode_pchk : decode (0x20#8 ++ 0b0100#4 ++ 0b0010#4 ++ 0b0000#4 ++ 0#12) = .ok (.pchk 4 2) := by decide
theorem test_decode_padd : decode (0x21#8 ++ 0b0100#4 ++ 0b0110#4 ++ 0b0010#4 ++ 0#12) = .ok (.padd 4 6 2) := by decide
theorem test_decode_pdbl : decode (0x22#8 ++ 0b0100#4 ++ 0b0010#4 ++ 0b0000#4 ++ 0#12) = .ok (.pdbl 4 2) := by decide
theorem test_decode_pneg : decode (0x23#8 ++ 0b0100#4 ++ 0b0010#4 ++ 0b0000#4 ++ 0#12) = .ok (.pneg 4 2) := by decide
theorem test_decode_pmul : decode (0x24#8 ++ 0b0010#4 ++ 0b0000#4 ++ 0b0011#4 ++ 0#12) = .ok (.pmul 2 0 3) := by decide
theorem test_decode_pisinf : decode (0x25#8 ++ 0b0000#4 ++ 0b0110#4 ++ 0b0000#4 ++ 0#12) = .ok (.pisinf 6) := by decide
theorem test_decode_pcmp : decode (0x26#8 ++ 0b0000#4 ++ 0b0010#4 ++ 0b0110#4 ++ 0#12) = .ok (.pcmp 2 6) := by decide
theorem test_decode_sinv : decode (0x27#8 ++ 0b0101#4 ++ 0b0100#4 ++ 0b0000#4 ++ 0#12) = .ok (.sinv 5 4) := by decide

/-- V-D2 to V-D15, V-D18, V-D19: the ILLEGAL words of the decoder table. -/
theorem test_decode_illegal :
    [0x00000001#32, 0x04000000#32, 0x1B000000#32, 0xFF000000#32, 0x12312001#32, 0x12312800#32, 0x19130000#32,
      0x19030001#32, 0x14312000#32, 0x21102000#32, 0x21412000#32, 0x21403000#32, 0x02010000#32, 0x03000007#32,
      0x03008000#32].all (fun w => match decode w with | .ok _ => false | .error _ => true) = true := by decide

/-- R53: the bytes of FADD R3, R1, R2 (0x12312000, R89), lowest address first. -/
theorem test_decode_bytes : decodeBytes [0x00#8, 0x20#8, 0x31#8, 0x12#8, 0x55#8] = .ok (.fadd 3 1 2, [0x55#8]) := by
  decide
theorem test_decode_truncated : decodeBytes [0x00#8, 0x20#8, 0x31#8] = .error .truncated := by decide
theorem test_decode_table_word : decodeTableWord 32 0x24204000 = some (.pmul 2 0 4) := by decide
/-- R89: the worked encodings. -/
theorem test_encode_worked : encode (.fadd 3 1 2) = 0x12312000#32 ∧ encode (.pmul 2 0 4) = 0x24204000#32 := by decide
/-- R89: a pseudo-instruction and its assembly. -/
theorem test_asm_ldg : (Pseudo.ldg 2).expand.map Instr.asm = ["LDC R2, #GX", "LDC R3, #GY"] := by decide

/-! ### One step of each command -/

/-- V-T1. -/
theorem test_nop : statusOf (run [] 0x00000000) = some (2#32, 0x00#8, 0#32) := by decide
/-- V-T2. -/
theorem test_mov : regOf (run [(3, 5#256)] 0x01730000) 7 = some (5#256, 0x00#8) := by decide
/-- V-T4. -/
theorem test_ldi : regOf (run [(4, allOnes)] 0x0240FFFF) 4 = some (65535#256, 0x00#8) := by decide
/-- V-T8. -/
theorem test_ldc_p : regOf (run [] 0x03000003) 0 = some (P, 0x00#8) := by decide
/-- V-T12. -/
theorem test_ldc_illegal : regOf (run [] 0x03000007) 0 = some (0#256, 0x01#8) := by decide
/-- V-F2, V-F4. -/
theorem test_fred_p : regOf (run [(1, P)] 0x10310000) 3 = some (0#256, 0x00#8) := by decide
theorem test_fred_ones : regOf (run [(1, allOnes)] 0x10310000) 3 = some (0x1000003D0#256, 0x00#8) := by decide
/-- V-F6, V-F7. -/
theorem test_fchk_pass : regOf (run [(1, pMinus1)] 0x11310000) 3 = some (pMinus1, 0x00#8) := by decide
theorem test_fchk_absent : flagsOf (run [(1, P)] 0x11310000) = some (8#32, 0x00#8) := by decide
/-- V-F11, V-F15. -/
theorem test_fadd_carry : regOf (run [(1, pMinus1), (2, pMinus1)] 0x12312000) 3 = some (P - 2#256, 0x00#8) := by
  decide
theorem test_fadd_noncanonical : regOf (run [(1, 1#256), (2, P)] 0x12312000) 3 = some (0#256, 0x02#8) := by decide
/-- V-F16, V-F20. -/
theorem test_fsub_borrow : regOf (run [(1, 0#256), (2, 1#256)] 0x13312000) 3 = some (pMinus1, 0x00#8) := by decide
theorem test_fsub_gy_gx : regOf (run [(1, GY), (2, GX)] 0x13312000) 3 =
    some (0xCE7C73F82CC708B9080499663F89FDA1FA7BB76D78B72B4042554F33E418B94F#256, 0x00#8) := by decide
/-- V-F22, V-F25. -/
theorem test_fneg_zero : regOf (run [] 0x14310000) 3 = some (0#256, 0x00#8) := by decide
theorem test_fneg_gy : regOf (run [(1, GY)] 0x14310000) 3 = some (negGY, 0x00#8) := by decide
/-- V-F28, V-F31. -/
theorem test_fmul_minus : regOf (run [(1, pMinus1), (2, pMinus1)] 0x15312000) 3 = some (1#256, 0x00#8) := by
  decide +kernel
theorem test_fmul_g : regOf (run [(1, GX), (2, GY)] 0x15312000) 3 =
    some (0xFD3DC529C6EB60FB9D166034CF3C1A5A72324AA9DFD3428A56D7E1CE0179FD9B#256, 0x00#8) := by decide +kernel
set_option maxRecDepth 20000 in
/-- V-F33, V-F37. -/
theorem test_fmuls_ones : regOf (run [(1, 2#256), (2, allOnes)] 0x16312000) 3 = some (0x2000007A0#256, 0x00#8) := by
  decide +kernel
theorem test_fmuls_noncanonical : regOf (run [(1, P), (2, 2#256)] 0x16312000) 3 = some (0#256, 0x02#8) := by decide
/-- V-F42, V-F43. -/
theorem test_finv_gx : regOf (run [(1, GX)] 0x17310000) 3 =
    some (0x237AFDF1D2938D86870AAEB8AD77626A67B8E794ABFB076BE61D003687CA9EF6#256, 0x00#8) := by decide +kernel
theorem test_finv_zero : regOf (run [] 0x17310000) 3 = some (0#256, 0x04#8) := by decide
/-- V-F46, V-F50. -/
theorem test_fdiv_g : regOf (run [(1, GX), (2, GY)] 0x18312000) 3 =
    some (0x2DB7DA16EF4BD6E01DFAAD38C11521CBC90DDA6DED1975FC41895C5D541F5127#256, 0x00#8) := by decide +kernel
theorem test_fdiv_order : regOf (run [(1, P)] 0x18312000) 3 = some (0#256, 0x02#8) := by decide
/-- V-F52, V-F53. -/
theorem test_fisz_zero : flagsOf (run [] 0x19010000) = some (1#32, 0x00#8) := by decide
theorem test_fisz_p : flagsOf (run [(1, P)] 0x19010000) = some (0#32, 0x00#8) := by decide
/-- V-F55, V-F58. -/
theorem test_fcmp_less : flagsOf (run [(1, 1#256), (2, 2#256)] 0x1A012000) = some (4#32, 0x00#8) := by decide
theorem test_fcmp_greater : flagsOf (run [(1, P), (2, pMinus1)] 0x1A012000) = some (0#32, 0x00#8) := by decide
/-- V-P3, V-P4. -/
theorem test_pchk_pass : pairOf (run [(0, 1#256), (1, Y1)] 0x20400000) 4 = some (⟨1#256, Y1⟩, 0x00#8) := by
  decide +kernel
theorem test_pchk_absent : flagsOf (run [(0, P + 1#256), (1, Y1)] 0x20400000) = some (8#32, 0x00#8) := by
  decide +kernel
/-- V-P14, V-P17. -/
theorem test_padd_g_2g : pairOf (run [(0, GX), (1, GY), (2, G2.x), (3, G2.y)] 0x21402000) 4 = some (G3, 0x00#8) := by
  decide +kernel
theorem test_padd_off_curve : pairOf (run [(1, 1#256), (2, GX), (3, GY)] 0x21402000) 4 = some (INF, 0x03#8) := by
  decide +kernel
set_option maxRecDepth 20000 in
/-- V-P19, V-P20. -/
theorem test_pdbl_g : pairOf (run [(0, GX), (1, GY)] 0x22400000) 4 = some (G2, 0x00#8) := by decide +kernel
theorem test_pdbl_inf : pairOf (run [(4, 9#256)] 0x22400000) 4 = some (INF, 0x00#8) := by decide +kernel
/-- V-O5, V-P24. -/
theorem test_pneg_in_place : pairOf (run [(0, GX), (1, GY)] 0x23000000) 0 = some (⟨GX, negGY⟩, 0x00#8) := by
  decide +kernel
theorem test_pneg_inf : pairOf (run [] 0x23400000) 4 = some (INF, 0x00#8) := by decide +kernel
set_option maxRecDepth 20000 in
/-- V-O3: the scalar is the old R0. V-P29. -/
theorem test_pmul_overlap : pairOf (run [(0, 2#256), (2, GX), (3, GY)] 0x24020000) 0 = some (G2, 0x00#8) := by
  decide +kernel
set_option maxRecDepth 20000 in
theorem test_pmul_three : pairOf (run [(0, GX), (1, GY), (2, 3#256)] 0x24402000) 4 = some (G3, 0x00#8) := by
  decide +kernel
/-- V-P7, V-P9. -/
theorem test_pisinf : flagsOf (run [] 0x25000000) = some (1#32, 0x00#8) := by decide
theorem test_pisinf_y : flagsOf (run [(1, 1#256)] 0x25000000) = some (0#32, 0x00#8) := by decide
/-- V-P38, V-P39. -/
theorem test_pcmp_equal : flagsOf (run [(0, GX), (1, GY), (2, GX), (3, GY)] 0x26002000) = some (2#32, 0x00#8) := by
  decide
theorem test_pcmp_less : flagsOf (run [(0, GX), (1, GY), (2, GX), (3, negGY)] 0x26002000) = some (4#32, 0x00#8) := by
  decide
/-- V-S1, V-S7. -/
theorem test_sinv_42 : regOf (run [(4, 42#256)] 0x27540000) 5 =
    some (0x8C30C30C30C30C30C30C30C30C30C30B7E9CB5EC0AA7C5760D9DDE71AEF923BC#256, 0x00#8) := by decide +kernel
theorem test_sinv_n : regOf (run [(4, N)] 0x27540000) 5 = some (0#256, 0x04#8) := by decide +kernel

/-! ### Host interface (V-M1 to V-M16) -/

/-- V-M2: the least significant word of R0 is at the lowest offset. -/
theorem test_window_word_order : regOf (script [W 0x100#12 0x16F81798#32, W 0x11C#12 0x79BE667E#32]) 0 =
    some (0x79BE667E00000000000000000000000000000000000000000000000016F81798#256, 0x00#8) := by decide
/-- V-M3: word 1 of R1 is bits 63:32. -/
theorem test_window_second_word : regOf (script [W 0x124#12 0xFFFFFFFF#32]) 1 = some (0xFFFFFFFF00000000#256, 0#8) := by
  decide
/-- V-M5. -/
theorem test_busy_then_done : statusOf (script [W 0x00C#12 0x12312000#32]) = some (1#32, 0#8, 0x12312000#32) ∧
    statusOf (script [W 0x00C#12 0x12312000#32, .complete]) = some (2#32, 0#8, 0x12312000#32) := by decide
/-- V-M6: a CMD write while BUSY is dropped. -/
theorem test_cmd_dropped : statusOf (script [W 0x00C#12 0#32, W 0x00C#12 0x04000000#32, .complete]) =
    some (0xA#32, 0#8, 0#32) := by decide
/-- V-M7: a window write while BUSY is dropped. -/
theorem test_window_dropped :
    regOf (script [W 0x100#12 5#32, W 0x00C#12 0x01100000#32, W 0x100#12 7#32, .complete]) 0 = some (5#256, 0#8) := by
  decide
/-- V-M8: ERR is sticky, ERRCODE is the latest. -/
theorem test_err_sticky :
    statusOf (script [W 0x00C#12 0x04000000#32, .complete]) = some (6#32, 1#8, 0x04000000#32) ∧
    statusOf (script [W 0x00C#12 0x04000000#32, .complete, W 0x00C#12 0#32, .complete]) = some (6#32, 0#8, 0#32) := by
  decide
/-- V-M9: write 1 to clear. -/
theorem test_status_w1c :
    Status.writeOneToClear ⟨false, true, true, true⟩ 2#32 = ⟨false, false, true, true⟩ ∧
    Status.writeOneToClear ⟨false, false, true, true⟩ 0xD#32 = ⟨false, false, false, false⟩ := by decide
/-- V-M10: irq = IE and DONE. -/
theorem test_irq :
    (match script [W 0x004#12 1#32, W 0x00C#12 0#32] with | .next s => s.irq | _ => true) = false ∧
    (match script [W 0x004#12 1#32, W 0x00C#12 0#32, .complete] with | .next s => s.irq | _ => false) = true ∧
    (match script [W 0x004#12 1#32, W 0x00C#12 0#32, .complete, W 0x008#12 2#32] with | .next s => s.irq | _ => true) =
      false := by decide
/-- V-M11: the reset wins over IE. -/
theorem test_srst_wins : portOf (script [W 0x004#12 0xFFFFFFFF#32, R 0x004#12]) = some (.data 0#32) := by decide
/-- V-M12: a soft reset aborts the command in flight. -/
theorem test_srst_aborts :
    statusOf (script [W 0x100#12 1#32, W 0x00C#12 0x22000000#32, W 0x004#12 2#32]) = some (0#32, 0#8, 0#32) ∧
    portOf (script [W 0x100#12 1#32, W 0x00C#12 0x22000000#32, W 0x004#12 2#32, R 0x100#12]) = some (.data 0#32) := by
  decide
/-- V-M1, V-M13: ID reads as its parameter. -/
theorem test_id : portOf (script [W 0x000#12 0x12345678#32, R 0x000#12]) = some (.data Config.idValue) := rfl
/-- V-M13: reserved offsets read 0. -/
theorem test_reserved : portOf (script [W 0x018#12 0xFFFFFFFF#32, R 0x018#12]) = some (.data 0#32) := by decide
/-- V-M14: a misaligned or narrow access is a bus error. -/
theorem test_bus_error : portOf (script [.host (.read 0x102#12 4)]) = some (.error Config.busErrorSignal) ∧
    portOf (script [.host (.write 0x00C#12 1 0#32)]) = some (.error Config.busErrorSignal) := ⟨rfl, rfl⟩
/-- V-M15: a busy window read is a free value. -/
theorem test_busy_read : portOf (script [W 0x00C#12 0x22000000#32, R 0x100#12]) =
    some (.data (Config.busyWindowRead 0 0x100#12 0x22000000#32 State.reset.regs)) := rfl
/-- V-M16: FCMP keeps Z. -/
theorem test_flags_kept :
    portOf (script [W 0x00C#12 0x19000000#32, .complete, W 0x00C#12 0x1A000000#32, .complete, R 0x014#12]) =
      some (.data 3#32) := by decide
/-- R208: completion over a STATUS write, CMD write after the completion. -/
theorem test_coincide_status :
    statusOf (script [W 0x00C#12 0x04000000#32, .coincide (.write 0x008#12 4 6#32) false]) =
      some (6#32, 1#8, 0x04000000#32) := by decide
theorem test_coincide_cmd :
    statusOf (script [W 0x00C#12 0x04000000#32, .coincide (.write 0x00C#12 4 0#32) true]) = some (5#32, 1#8, 0#32) := by
  decide

/-! ### Witnesses: a state and operands that meet the hypotheses of each statement -/

/-- R0 = 0, R1 = p - 1, R2 = p, R3 = 1, R4 = n, R5 = n - 1, and a NOP in flight. -/
def scalars : State := fetch [(1, pMinus1), (2, P), (3, 1#256), (4, N), (5, N - 1#256)] 0

/-- P0 = G, P2 = 2G, P4 = (0, 1), P6 = (p, Y1), P8 = INF, and a NOP in flight. -/
def points : State := fetch [(0, GX), (1, GY), (2, G2.x), (3, G2.y), (5, 1#256), (6, P), (7, Y1)] 0

/-- The reset state with events to come. -/
def scheduled (es : List Event) : State := { State.reset with events := es }

/-- A NOP in flight with events to come. -/
def busy (es : List Event) : State := { fetch [] 0 with events := es }

theorem witness_DecodeOfEncodeIsTheCommand :
    (Instr.padd 14 0 6).wellFormed = true ∧ (Instr.ldc 15 6#16).wellFormed = true := by decide

theorem witness_LegalWordIsTheEncodingOfItsCommand : decode 0x21E06000#32 = .ok (.padd 14 0 6) := by decide

theorem witness_LegalWordsAreTheOpcodeTableRows :
    decode 0x03000006#32 = .ok (.ldc 0 6#16) ∧
    ∃ row ∈ tableRows, row.selects 0x03000006#32 = true := by decide

theorem witness_StepRunsTheDecodedCommand :
    ∃ f, (fetch [] 0x01730000).pending = some f ∧ decode f.word = .ok (.mov 7 3) ∧
      (fetch [] 0x01730000).events = .complete :: [] ∧ ({ fetch [] 0x01730000 with events := [] }).events = [] :=
  ⟨_, rfl, by decide, rfl, rfl⟩

theorem witness_WordOfNoRowCompletesIllegal :
    ∃ f, (fetch [] 0x03000007).pending = some f ∧ (fetch [] 0x03000007).events = .complete :: [] ∧
      (∀ row ∈ tableRows, row.selects f.word = false) ∧
      ({ fetch [] 0x03000007 with events := [] }).pending = some f :=
  ⟨_, rfl, rfl, by decide, rfl⟩

theorem witness_IdleCmdWriteIsAccepted :
    (scheduled [W 0x00C#12 0xFFFFFFFF#32]).events = .host (.write 0x00C#12 4 0xFFFFFFFF#32) :: [] ∧
    (scheduled [W 0x00C#12 0xFFFFFFFF#32]).status.busy = false ∧
    (busy [W 0x00C#12 0xFFFFFFFF#32]).status.busy = true := ⟨rfl, rfl, rfl⟩

theorem witness_FlagsAreWrittenByTheirCommandsOnly :
    ∃ t, exec (.mov 7 3) scalars = .next t ∧ writesZ (.mov 7 3) = false ∧ writesCmp (.mov 7 3) = false ∧
      writesNone (.mov 7 3) = false := ⟨_, rfl, rfl, rfl, rfl⟩

theorem witness_OnlyDestinationRegistersChange :
    ∃ t, exec (.mov 7 3) scalars = .next t ∧ (8 : Reg) ∉ destinations (.mov 7 3) := ⟨_, rfl, by decide⟩

theorem witness_OutcomeCodesOfEachCommand :
    (∃ t, exec (.pneg 15 0) points = .next t) ∧ (Instr.pneg 15 0).wellFormed = false ∧
    (∃ t, exec (.mov 15 0) points = .next t) ∧ (Instr.mov 15 0).wellFormed = true :=
  ⟨⟨_, rfl⟩, by decide, ⟨_, rfl⟩, rfl⟩

/-- Equal snapshots beside different current registers. -/
theorem witness_ResultsDependOnSnapshotOnly :
    scalars.snapshot = ({ scalars with regs := State.reset.regs, ie := true }).snapshot ∧
    scalars.regs ≠ State.reset.regs ∧ (∃ t, exec (.mov 7 3) scalars = .next t) ∧
    ∃ t, exec (.mov 7 3) { scalars with regs := State.reset.regs, ie := true } = .next t :=
  ⟨rfl, by decide, ⟨_, rfl⟩, ⟨_, rfl⟩⟩

theorem witness_OperandsAreTheSnapshot : (∃ f, scalars.pending = some f) ∧ scalars.Inv :=
  ⟨⟨_, rfl⟩, by unfold State.Inv; decide⟩

theorem witness_TransferCommandsWriteTheirValue :
    constants[(6#16).toNat]? = some GY ∧ 6 < (7#16).toNat ∧
    ((0x00000001#32).toNat / 2 ^ 24 = 0x00 ∧ 0x00000001#32 ≠ 0#32) ∧
    ((0x03010006#32).toNat / 2 ^ 24 = 0x03 ∧ (0x03010006#32).toNat / 2 ^ 16 % 16 ≠ 0) := by decide

theorem witness_FchkValidatesWithoutReducing : val scalars 1 < p ∧ p ≤ val scalars 2 := by decide

theorem witness_FaddAddsModP :
    (val scalars 1 < p ∧ val scalars 3 < p) ∧ (p ≤ val scalars 2 ∨ p ≤ val scalars 1) := by decide

theorem witness_FsubSubtractsModP :
    (val scalars 0 < p ∧ val scalars 1 < p) ∧ (p ≤ val scalars 1 ∨ p ≤ val scalars 2) := by decide

theorem witness_FnegNegatesModP : val scalars 0 < p ∧ val scalars 1 < p ∧ p ≤ val scalars 2 := by decide

theorem witness_DoubleAndAddLoopIsProductModP : pMinus1.toNat < p := by decide

theorem witness_FmulAndFmulsMultiplyModP :
    (val scalars 1 < p ∧ val scalars 1 < p) ∧ (p ≤ val scalars 2 ∨ p ≤ val scalars 1) := by decide

theorem witness_FinvWritesTheUniqueInverse :
    (val scalars 1 < p ∧ val scalars 1 ≠ 0) ∧ val scalars 0 = 0 ∧ p ≤ val scalars 2 := by decide

theorem witness_FdivWritesTheQuotient :
    (val scalars 0 < p ∧ val scalars 1 < p ∧ val scalars 1 ≠ 0) ∧ (val scalars 1 < p ∧ val scalars 0 = 0) ∧
    (p ≤ val scalars 2 ∨ p ≤ val scalars 0) := by decide

theorem onCurve_G : OnCurve (pt points 0) := by
  unfold OnCurve
  decide +kernel
theorem onCurve_G2 : OnCurve (pt points 2) := by
  unfold OnCurve
  decide +kernel
theorem onCurve_inf : OnCurve (pt points 8) := by
  unfold OnCurve
  decide +kernel
theorem not_onCurve_off : ¬ OnCurve (pt points 4) := by
  unfold OnCurve
  decide +kernel
theorem not_onCurve_noncanonical : ¬ OnCurve (pt points 6) := by
  unfold OnCurve
  decide +kernel

theorem witness_PchkValidatesThePair :
    IsPair 14 ∧ IsPair 0 ∧ OnCurve (pt points 0) ∧ IsPair 6 ∧ ¬ OnCurve (pt points 6) :=
  ⟨by decide, by decide, onCurve_G, by decide, not_onCurve_noncanonical⟩

theorem witness_PointTestsWriteTheirFlags : IsPair 0 ∧ IsPair 14 := by decide

theorem witness_PaddWritesTheSum :
    IsPair 14 ∧ IsPair 0 ∧ IsPair 2 ∧ (OnCurve (pt points 0) ∧ OnCurve (pt points 2)) ∧
    (¬ OnCurve (pt points 4) ∨ ¬ OnCurve (pt points 2)) :=
  ⟨by decide, by decide, by decide, ⟨onCurve_G, onCurve_G2⟩, .inl not_onCurve_off⟩

theorem witness_PdblWritesTheDouble :
    IsPair 14 ∧ IsPair 0 ∧ OnCurve (pt points 0) ∧ IsPair 8 ∧ OnCurve (pt points 8) ∧ IsPair 4 ∧
      ¬ OnCurve (pt points 4) :=
  ⟨by decide, by decide, onCurve_G, by decide, onCurve_inf, by decide, not_onCurve_off⟩

theorem witness_PnegNegatesTheY :
    IsPair 0 ∧ OnCurve (pt points 0) ∧ IsPair 6 ∧ ¬ OnCurve (pt points 6) :=
  ⟨by decide, onCurve_G, by decide, not_onCurve_noncanonical⟩

theorem witness_PmulIsDoubleAndAdd :
    IsPair 2 ∧ IsPair 0 ∧ OnCurve (pt points 0) ∧ IsPair 4 ∧ ¬ OnCurve (pt points 4) :=
  ⟨by decide, by decide, onCurve_G, by decide, not_onCurve_off⟩

theorem witness_PmulIsTheFoldSum : OnCurve (pt points 0) := onCurve_G

theorem witness_PaddNeverDividesByZero :
    OnCurve (pt points 0) ∧ OnCurve (pt points 2) ∧ pt points 0 ≠ inf ∧ pt points 2 ≠ inf ∧
    ¬ ((pt points 0).x = (pt points 2).x ∧ (pt points 0).y = fneg (pt points 2).y) ∧
    ¬ ((pt points 0).x = (pt points 0).x ∧ (pt points 0).y = fneg (pt points 0).y) :=
  ⟨onCurve_G, onCurve_G2, by decide, by decide, by decide, by decide⟩

theorem witness_PaddOfValidPointsIsValid : OnCurve (pt points 0) ∧ OnCurve (pt points 2) := ⟨onCurve_G, onCurve_G2⟩

theorem witness_PaddNeutralInverseAndCommutes : OnCurve (pt points 0) ∧ OnCurve (pt points 8) := ⟨onCurve_G, onCurve_inf⟩

theorem witness_PaddIsAssociative : OnCurve (pt points 0) ∧ OnCurve (pt points 2) ∧ OnCurve (pt points 8) :=
  ⟨onCurve_G, onCurve_G2, onCurve_inf⟩

theorem witness_SinvInvertsModN :
    Nat.gcd (val scalars 5 % n) n = 1 ∧ Nat.gcd (val scalars 4 % n) n ≠ 1 ∧ Nat.gcd (val scalars 0 % n) n ≠ 1 := by
  decide +kernel

theorem witness_IllegalAccessIsABusError :
    (2 ≠ 4 ∨ (0x100#12).toNat % 4 ≠ 0) ∧ (4 ≠ 4 ∨ (0x102#12).toNat % 4 ≠ 0) ∧
    (scheduled [.host (.read 0x102#12 4)]).events = .host (.read 0x102#12 4) :: [] ∧
    (scheduled [.host (.write 0x102#12 4 0#32)]).events = .host (.write 0x102#12 4 0#32) :: [] :=
  ⟨by decide, by decide, rfl, rfl⟩

theorem witness_ReadsHaveNoSideEffect : (busy [R 0x100#12]).events = .host (.read 0x100#12 4) :: [] := rfl

theorem witness_ControlRegistersReadTheirFields :
    (busy [R 0x008#12]).events = .host (.read 0x008#12 4) :: [] ∧
    (1#32).toNat = (busy []).status.busy.toNat + 2 * (busy []).status.done.toNat + 4 * (busy []).status.err.toNat +
      8 * (busy []).status.ovr.toNat ∧
    (0#32).toNat = (busy []).ie.toNat ∧ (0#32).toNat = (busy []).errcode.toNat ∧
    (0#32).toNat = (busy []).flags.z.toNat + 2 * (busy []).flags.eq.toNat + 4 * (busy []).flags.lt.toNat +
      8 * (busy []).flags.none.toNat ∧
    ((0x018#12).toNat % 4 = 0 ∧ 0x018 ≤ (0x018#12).toNat ∧ (0x018#12).toNat ≤ 0x0FC) ∧
    ((0x0FC#12).toNat % 4 = 0 ∧ 0x018 ≤ (0x0FC#12).toNat ∧ (0x0FC#12).toNat ≤ 0x0FC) ∧
    ((0x300#12).toNat % 4 = 0 ∧ 0x300 ≤ (0x300#12).toNat) ∧ ((0xFFC#12).toNat % 4 = 0 ∧ 0x300 ≤ (0xFFC#12).toNat) := by
  decide

theorem witness_WindowReadReturnsItsWord :
    (0x2FC#12).toNat = 0x100 + 32 * (15 : Reg).val + 4 * (7 : Fin 8).val ∧
    (scheduled [R 0x2FC#12]).status.busy = false ∧ (busy [R 0x2FC#12]).status.busy = true := by decide

theorem witness_WindowWriteReplacesOneWord :
    (0x100#12).toNat = 0x100 + 32 * (0 : Reg).val + 4 * (0 : Fin 8).val ∧
    (0x2FC#12).toNat = 0x100 + 32 * (15 : Reg).val + 4 * (7 : Fin 8).val ∧
    (scheduled [W 0x2FC#12 1#32]).events = .host (.write 0x2FC#12 4 1#32) :: [] ∧
    (scheduled [W 0x2FC#12 1#32]).status.busy = false ∧ (busy [W 0x2FC#12 1#32]).status.busy = true := by decide

theorem witness_DroppedAndIgnoredWrites :
    (busy [W 0x2FC#12 1#32]).events = .host (.write 0x2FC#12 4 1#32) :: [] ∧ (busy []).status.busy = true ∧
    (0x2FC#12).toNat % 4 = 0 ∧ (0x100 ≤ (0x2FC#12).toNat ∧ (0x2FC#12).toNat ≤ 0x2FC) ∧
    (0x100 ≤ (0x100#12).toNat ∧ (0x100#12).toNat ≤ 0x2FC) ∧ (0x00C#12).toNat = 0x00C ∧
    (0x010 ≤ (0x010#12).toNat ∧ (0x010#12).toNat ≤ 0x0FC) ∧ (0x010 ≤ (0x0FC#12).toNat ∧ (0x0FC#12).toNat ≤ 0x0FC) ∧
    0x300 ≤ (0x300#12).toNat := by decide

theorem witness_StatusWriteClearsOnes :
    (busy [W 0x008#12 0xF#32]).events = .host (.write 0x008#12 4 0xF#32) :: [] := rfl

theorem witness_CtrlWriteSetsInterruptEnable :
    (busy [W 0x004#12 1#32]).events = .host (.write 0x004#12 4 1#32) :: [] ∧ (1#32).getLsbD 1 = false := by decide

theorem witness_ByteLanesAreLittleEndian : State.reset.status.busy = false := rfl

theorem witness_EveryResetGivesTheResetState :
    (busy [.hardReset]).events = .hardReset :: [] ∧ (3#32).getLsbD 1 = true ∧
    (busy [W 0x004#12 3#32]).events = .host (.write 0x004#12 4 3#32) :: [] := by decide

theorem witness_SameCycleOutcomes :
    (∃ f, (busy []).pending = some f) ∧ (∃ u, engineStep { busy [] with events := [] } = .next u) ∧
    (busy [.coincide (.write 0x008#12 4 6#32) false]).events = .coincide (.write 0x008#12 4 6#32) false :: [] ∧
    (busy [.coincide (.write 0x004#12 4 2#32) true]).events = .coincide (.write 0x004#12 4 2#32) true :: [] ∧
    (2#32).getLsbD 1 = true ∧
    (busy [.coincide (.write 0x00C#12 4 9#32) true]).events = .coincide (.write 0x00C#12 4 9#32) true :: [] :=
  ⟨⟨_, rfl⟩, ⟨_, rfl⟩, rfl, rfl, by decide, rfl⟩

theorem witness_EveryStepKeepsTheBlockInvariant :
    (busy [W 0x100#12 1#32]).Inv ∧ ∃ t, step (busy [W 0x100#12 1#32]) = .next t :=
  ⟨by unfold State.Inv; decide, ⟨_, rfl⟩⟩

/-- ERR and OVR set, and a STATUS write of 0xC next. -/
def sticky : State :=
  { State.reset with status := ⟨false, false, true, true⟩, events := [W 0x008#12 0xC#32] }

theorem not_isReset_status (v : BusWord) : ¬ isReset (W 0x008#12 v) := by
  simp [isReset, accessOf, W]

theorem not_isReset_window (v : BusWord) : ¬ isReset (W 0x100#12 v) := by
  simp [isReset, accessOf, W]

/-- A state whose next event is no reset does not reset. -/
theorem not_resetsNext {s : State} {e : Event} (h : s.events.head? = some e) (he : ¬ isReset e) : ¬ resetsNext s := by
  rintro ⟨e', h', hr⟩
  rw [h] at h'
  exact he (Option.some.inj h' ▸ hr)

/-- With nothing in flight no command completes. -/
theorem not_completesNext {s : State} (h : s.pending = none) : ¬ completesNext s := fun hc => hc.1 h

theorem witness_ErrAndOvrAreSticky :
    (∃ t, step sticky = .next t ∧ t.status.err = false ∧ t.status.ovr = false) ∧ ¬ resetsNext sticky ∧
    sticky.status.err = true ∧ sticky.status.ovr = true :=
  ⟨⟨_, rfl, by decide, by decide⟩, not_resetsNext rfl (not_isReset_status _), rfl, rfl⟩

/-- A window write in the clock cycle of a completion event, and nothing in flight. -/
def idleCoincide : State := scheduled [.coincide (.write 0x100#12 4 1#32) true]

theorem not_resetsNext_idleCoincide : ¬ resetsNext idleCoincide :=
  not_resetsNext rfl (by simp [isReset, accessOf])

theorem witness_ErrcodeAndFlagsChangeOnlyAtCompletion :
    (∃ t, step idleCoincide = .next t) ∧ ¬ completesNext idleCoincide ∧ ¬ resetsNext idleCoincide :=
  ⟨⟨_, rfl⟩, not_completesNext rfl, not_resetsNext_idleCoincide⟩

theorem witness_RegistersChangeOnlyByTheirEvents :
    (∃ t, step idleCoincide = .next t ∧ getReg t.regs 0 ≠ getReg idleCoincide.regs 0) ∧
    ¬ completesNext idleCoincide ∧ ¬ resetsNext idleCoincide :=
  ⟨⟨_, rfl, by decide⟩, not_completesNext rfl, not_resetsNext_idleCoincide⟩

theorem witness_NoCommandStaysInFlight : (busy [W 0x00C#12 1#32, .complete, .hardReset]).Inv := by
  unfold State.Inv
  decide

theorem witness_HostCannotDisturbACommandInFlight :
    (busy (Event.host (.write 0x100#12 4 1#32) :: .complete :: [])).Inv ∧
    (∃ f, (busy (Event.host (.write 0x100#12 4 1#32) :: .complete :: [])).pending = some f) ∧
    (∀ a ∈ [Access.write 0x100#12 4 1#32], ¬ isReset (.host a)) ∧
    (busy (Event.host (.write 0x100#12 4 1#32) :: .complete :: [])).events =
      [Access.write 0x100#12 4 1#32].map Event.host ++ .complete :: [] ∧
    ∃ u, engineStep (busy (Event.host (.write 0x100#12 4 1#32) :: .complete :: [])) = .next u :=
  ⟨by unfold State.Inv; decide, ⟨_, rfl⟩, fun a ha => by
    rw [List.mem_singleton] at ha
    subst ha
    exact not_isReset_window 1#32, rfl, ⟨_, rfl⟩⟩

end Sys2Proof.Tests
end

section
/-! SUPPORT. What one step can do to the block, said once, and the statements about the block's state that follow from
it: the invariant, the control registers, the sticky bits, what changes ERRCODE, FLAGS and the data registers. -/

namespace Sys2Proof.Machine

open Sys2Proof.Stated

/-! ### What one step can do -/

/-- The state that an event acts on: its event taken off the schedule. -/
def State.popEvent (s : State) : State := { s with events := s.events.tail }

@[simp] theorem State.popEvent_regs (s : State) : s.popEvent.regs = s.regs := rfl
@[simp] theorem State.popEvent_flags (s : State) : s.popEvent.flags = s.flags := rfl
@[simp] theorem State.popEvent_ie (s : State) : s.popEvent.ie = s.ie := rfl
@[simp] theorem State.popEvent_status (s : State) : s.popEvent.status = s.status := rfl
@[simp] theorem State.popEvent_errcode (s : State) : s.popEvent.errcode = s.errcode := rfl
@[simp] theorem State.popEvent_cmd (s : State) : s.popEvent.cmd = s.cmd := rfl
@[simp] theorem State.popEvent_pending (s : State) : s.popEvent.pending = s.pending := rfl
@[simp] theorem State.popEvent_events (s : State) : s.popEvent.events = s.events.tail := rfl
@[simp] theorem State.popEvent_port (s : State) : s.popEvent.port = s.port := rfl
@[simp] theorem State.popEvent_draws (s : State) : s.popEvent.draws = s.draws := rfl

theorem State.popEvent_of_no_event {s : State} (h : s.events = []) : s.popEvent = s := by
  rw [State.popEvent, h, List.tail_nil, ← h]

theorem State.popEvent_of_event {s : State} {e : Event} {rest : List Event} (h : s.events = e :: rest) :
    s.popEvent = { s with events := rest } := by
  simp [State.popEvent, h]

/-- Everything a step can do (R61, R208): a reset, one host transaction, the engine's step, or a host transaction and
the engine's step in one of the two orders. -/
inductive StepEffect (s : State) : State → Prop where
  | reset (h : s.events.head? = some .hardReset) : StepEffect s s.popEvent.resetBlock
  | host (a : Access) (h : s.events.head? = some (.host a)) : StepEffect s (s.popEvent.transact a)
  | engine (t : State) (h : s.events = [] ∨ s.events.head? = some .complete)
      (ht : engineStep s.popEvent = .next t) : StepEffect s t
  | hostThenEngine (a : Access) (b : Bool) (t : State) (h : s.events.head? = some (.coincide a b))
      (hf : actsFirst a b = true) (ht : engineStep (s.popEvent.transact a) = .next t) : StepEffect s t
  | engineThenHost (a : Access) (b : Bool) (u : State) (h : s.events.head? = some (.coincide a b))
      (hf : actsFirst a b = false) (hu : engineStep s.popEvent = .next u) : StepEffect s (u.transact a)

/-- Two results in sequence end in a next state only through a next state between them. -/
theorem andThen_eq_next {r : Result} {k : State → Result} {t : State} (h : andThen r k = .next t) :
    ∃ u, r = .next u ∧ k u = .next t := by
  cases r with
  | next u => exact ⟨u, rfl, h⟩
  | fault e => cases h
  | refused e => cases h

theorem step_effect {s t : State} (h : step s = .next t) : StepEffect s t := by
  cases hev : s.events with
  | nil =>
    rw [step_of_no_event s hev] at h
    exact .engine t (.inl hev) (by rwa [State.popEvent_of_no_event hev])
  | cons e rest =>
    have hhead : s.events.head? = some e := by rw [hev]; rfl
    rw [step_of_event s e rest hev, ← State.popEvent_of_event hev] at h
    cases e with
    | hardReset => cases h; exact .reset hhead
    | host a => cases h; exact .host a hhead
    | complete => exact .engine t (.inr hhead) h
    | coincide a b =>
      change coincide a b s.popEvent = .next t at h
      unfold coincide at h
      split at h
      next hf => exact .hostThenEngine a b t hhead hf h
      next hf =>
        obtain ⟨u, hu, ht⟩ := andThen_eq_next h
        cases ht
        exact .engineThenHost a b u hhead (by simpa using hf) hu

/-- The engine's next state: the same state when idle, else an error or a completion. -/
theorem engineStep_cases {s t : State} (h : engineStep s = .next t) :
    (s.pending = none ∧ t = s) ∨ (s.pending ≠ none ∧ CommandEffect s (.next t)) := by
  have he := engineStep_effect s
  rw [h] at he
  obtain ⟨hp, hs⟩ | he := he
  · cases hs; exact .inl ⟨hp, rfl⟩
  · exact .inr he

theorem eq_of_engineStep_idle {s t : State} (hp : s.pending = none) (h : engineStep s = .next t) : t = s := by
  obtain ⟨-, ht⟩ | ⟨hn, -⟩ := engineStep_cases h
  · exact ht
  · exact absurd hp hn

/-! ### The block's invariant -/

theorem OutcomeCode.code_le (o : OutcomeCode) : o.code.toNat ≤ 4 := by cases o <;> decide

/-- In a state of the invariant nothing is in flight while BUSY is 0. -/
theorem State.Inv.pending_of_idle {s : State} (hi : s.Inv) (hb : s.status.busy = false) : s.pending = none := by
  obtain ⟨hbusy, -, -⟩ := hi
  rw [hb] at hbusy
  simpa using hbusy.symm

theorem State.resetBlock_inv (s : State) : s.resetBlock.Inv := ⟨rfl, .inl rfl, Nat.zero_le 4⟩

/-- Whatever the state before, a completion with any outcome ends in a state of the invariant. -/
theorem State.retire_inv (s : State) (o : OutcomeCode) : (s.retire o).Inv := ⟨rfl, .inl rfl, o.code_le⟩

theorem CommandEffect.inv {s t : State} (h : CommandEffect s (.next t)) : t.Inv := by
  cases h with
  | error o _ => exact s.retire_inv o
  | ok regs flags => exact State.retire_inv _ .ok

theorem engineStep_inv {s t : State} (hi : s.Inv) (h : engineStep s = .next t) : t.Inv := by
  obtain ⟨-, rfl⟩ | ⟨-, he⟩ := engineStep_cases h
  · exact hi
  · exact he.inv

theorem WriteEffect.inv {s t : State} {w : BusWord} {d : Target} (h : WriteEffect s w d t) (hi : s.Inv) : t.Inv := by
  cases h with
  | ignored => exact hi
  | softReset => exact s.resetBlock_inv
  | enable => exact hi
  | cmdDropped => exact hi
  | windowDropped => exact hi
  | status =>
    -- DONE can only fall
    obtain ⟨hb, hp, he⟩ := hi
    refine ⟨hb, hp.imp_right fun ⟨hf, hd⟩ => ⟨hf, ?_⟩, he⟩
    simp [hd]
  | accepted =>
    obtain ⟨-, -, he⟩ := hi
    exact ⟨rfl, .inr ⟨rfl, rfl⟩, he⟩
  | window i j hb =>
    -- no snapshot can differ from the registers, since none is held
    have hp := hi.pending_of_idle hb
    obtain ⟨hbusy, -, he⟩ := hi
    exact ⟨hbusy, .inl hp, he⟩

theorem transact_inv {s : State} (hi : s.Inv) (a : Access) : (s.transact a).Inv := by
  obtain ⟨port, draws, e⟩ | ⟨off, w, t, -, -, h, e⟩ := transact_cases s a
  · rw [e]; exact hi
  · rw [e]; exact h.inv hi

/-- Settles O50: each part of a step, the engine's and the host's, keeps the invariant. -/
theorem everyStepKeepsTheBlockInvariant : Obligations.EveryStepKeepsTheBlockInvariant := by
  intro s t hi h
  have hpop : s.popEvent.Inv := hi
  cases step_effect h with
  | reset => exact s.popEvent.resetBlock_inv
  | host a => exact transact_inv hpop a
  | engine _ _ ht => exact engineStep_inv hpop ht
  | hostThenEngine a _ _ _ _ ht => exact engineStep_inv (transact_inv hpop a) ht
  | engineThenHost a _ u _ _ hu => exact transact_inv (engineStep_inv hpop hu) a

/-! ### The flags that a command writes -/

/-- What a command's result does to FLAGS (R25): it keeps them, or writes only the flags listed for the command. -/
inductive FlagEffect (i : Instr) (s : State) : Result → Prop where
  | kept (t : State) (h : t.flags = s.flags) : FlagEffect i s (.next t)
  | z (t : State) (b : Bool) (hi : writesZ i = true) (h : t.flags = s.flags.setZ b) : FlagEffect i s (.next t)
  | cmp (t : State) (e l : Bool) (hi : writesCmp i = true) (h : t.flags = s.flags.setCmp e l) :
      FlagEffect i s (.next t)
  | none (t : State) (b : Bool) (hi : writesNone i = true) (h : t.flags = s.flags.setNone b) :
      FlagEffect i s (.next t)

theorem FlagEffect.ite {i : Instr} {s : State} {c : Prop} [Decidable c] {r r' : Result} (h : FlagEffect i s r)
    (h' : FlagEffect i s r') : FlagEffect i s (if c then r else r') := by
  split <;> assumption

/-- An ill-formed term completes with ILLEGAL, which writes no flag (R203). -/
theorem FlagEffect.withPairs {i : Instr} {s : State} {body : State → Result} (pairs : List Reg)
    (h : FlagEffect i s (body s)) : FlagEffect i s (withPairs pairs s body) := by
  unfold Machine.withPairs
  exact h.ite (.kept _ rfl)

theorem exec_flagEffect (i : Instr) (s : State) : FlagEffect i s (exec i s) := by
  cases i with
  | nop | mov | ldi | fred => exact .kept _ rfl
  | ldc rd imm16 =>
    simp only [exec, execLdc]
    split <;> exact .kept _ rfl
  | sinv rd ra =>
    simp only [exec, execSinv]
    split <;> exact .kept _ rfl
  | fadd | fsub | fneg | fmul | fmuls => exact .ite (.kept _ rfl) (.kept _ rfl)
  | finv | fdiv => exact .ite (.ite (.kept _ rfl) (.kept _ rfl)) (.kept _ rfl)
  | padd | pdbl | pneg | pmul =>
    simp only [exec]
    refine .withPairs _ ?_
    exact .ite (.kept _ rfl) (.kept _ rfl)
  | fisz => exact .z _ _ rfl rfl
  | pisinf => exact .withPairs _ (.z _ _ rfl rfl)
  | fcmp => exact .cmp _ _ _ rfl rfl
  | pcmp => exact .withPairs _ (.cmp _ _ _ rfl rfl)
  | fchk => exact .ite (.none _ _ rfl rfl) (.none _ _ rfl rfl)
  | pchk =>
    simp only [exec]
    refine .withPairs _ ?_
    exact .ite (.none _ _ rfl rfl) (.none _ _ rfl rfl)

/-- Settles O9, by the flag effect of each command. -/
theorem flagsAreWrittenByTheirCommandsOnly : Obligations.FlagsAreWrittenByTheirCommandsOnly := by
  intro i s t h
  have he := exec_flagEffect i s
  rw [h] at he
  cases he with
  | kept _ ht => simp [ht]
  | z _ b hi ht => simp [ht, hi]
  | cmp _ e l hi ht => simp [ht, hi]
  | none _ b hi ht => simp [ht, hi]

/-! ### The address decode -/

/-- What each answer of the address decode says about the offset (R51, R54). -/
inductive TargetAt (off : Offset) : Target → Prop where
  | id (h : off.toNat = 0x000) : TargetAt off .id
  | ctrl (h : off.toNat = 0x004) : TargetAt off .ctrl
  | status (h : off.toNat = 0x008) : TargetAt off .status
  | cmd (h : off.toNat = 0x00C) : TargetAt off .cmd
  | errcode (h : off.toNat = 0x010) : TargetAt off .errcode
  | flags (h : off.toNat = 0x014) : TargetAt off .flags
  | window (h : 0x100 ≤ off.toNat ∧ off.toNat ≤ 0x2FC) :
      TargetAt off (.window (Fin.ofNat 16 ((off.toNat - 0x100) / 32)) (Fin.ofNat 8 ((off.toNat - 0x100) / 4)))
  | reserved (h : ¬ (0x100 ≤ off.toNat ∧ off.toNat ≤ 0x2FC))
      (h' : off.toNat ∉ [0x000, 0x004, 0x008, 0x00C, 0x010, 0x014]) : TargetAt off .reserved

theorem target_at (off : Offset) : TargetAt off (target off) := by
  simp only [target]
  split_ifs
  · exact .id ‹_›
  · exact .ctrl ‹_›
  · exact .status ‹_›
  · exact .cmd ‹_›
  · exact .errcode ‹_›
  · exact .flags ‹_›
  · exact .window ‹_›
  · exact .reserved ‹_› (by simp [*])

theorem eq_of_target_eq_ctrl {off : Offset} (h : target off = .ctrl) : off = 0x004#12 := by
  have ht := target_at off
  rw [h] at ht
  cases ht with
  | ctrl h => exact BitVec.eq_of_toNat_eq h

theorem eq_of_target_eq_status {off : Offset} (h : target off = .status) : off = 0x008#12 := by
  have ht := target_at off
  rw [h] at ht
  cases ht with
  | status h => exact BitVec.eq_of_toNat_eq h

/-- An aligned offset that decodes to word j of `R[i]` is that word's offset (R54). -/
theorem eq_of_target_eq_window {off : Offset} {i : Reg} {j : Fin 8} (ha : off.toNat % 4 = 0)
    (h : target off = .window i j) : off = BitVec.ofNat 12 (0x100 + 32 * i.val + 4 * j.val) := by
  have ht := target_at off
  rw [h] at ht
  cases ht with
  | window h =>
    apply BitVec.eq_of_toNat_eq
    simp only [Fin.ofNat, BitVec.toNat_ofNat]
    omega

theorem target_of_window {off : Offset} (h : 0x100 ≤ off.toNat ∧ off.toNat ≤ 0x2FC) :
    ∃ i j, target off = .window i j := by
  have ht := target_at off
  generalize target off = d at ht ⊢
  cases ht with
  | window => exact ⟨_, _, rfl⟩
  | id | ctrl | status | cmd | errcode | flags | reserved => omega

theorem target_of_reserved {off : Offset}
    (h : 0x018 ≤ off.toNat ∧ off.toNat ≤ 0x0FC ∨ 0x300 ≤ off.toNat) : target off = .reserved := by
  have ht := target_at off
  generalize target off = d at ht ⊢
  cases ht with
  | reserved => rfl
  | id | ctrl | status | cmd | errcode | flags | window => omega

/-- The offsets whose writes are ignored (R34): ID, ERRCODE, FLAGS and the reserved ranges. -/
theorem target_ignores_writes {off : Offset}
    (h : off.toNat = 0x000 ∨ 0x010 ≤ off.toNat ∧ off.toNat ≤ 0x0FC ∨ 0x300 ≤ off.toNat) :
    target off = .id ∨ target off = .errcode ∨ target off = .flags ∨ target off = .reserved := by
  have ht := target_at off
  generalize target off = d at ht ⊢
  cases ht with
  | id | errcode | flags | reserved => simp
  | ctrl | status | cmd | window => omega

/-! ### Reads -/

theorem bits_toNat (a b c d : Bool) :
    (bit a 0 ||| bit b 1 ||| bit c 2 ||| bit d 3).toNat = a.toNat + 2 * b.toNat + 4 * c.toNat + 8 * d.toNat := by
  revert a b c d
  decide

/-- R29: STATUS as read. -/
theorem Status.word_toNat (t : Status) :
    t.word.toNat = t.busy.toNat + 2 * t.done.toNat + 4 * t.err.toNat + 8 * t.ovr.toNat := bits_toNat _ _ _ _

/-- R33: FLAGS as read. -/
theorem Flags.word_toNat (f : Flags) :
    f.word.toNat = f.z.toNat + 2 * f.eq.toNat + 4 * f.lt.toNat + 8 * f.none.toNat := bits_toNat _ _ _ _

/-- R28: CTRL as read. -/
theorem ctrlWord_toNat (ie : Bool) : (ctrlWord ie).toNat = ie.toNat := by cases ie <;> rfl

theorem legalAccess_of_aligned {off : Offset} (ha : off.toNat % 4 = 0) : legalAccess off 4 = true := by
  simp [legalAccess, ha]

/-- The schedule holds nothing that a read returns. -/
theorem readTarget_events (s : State) (es : List Event) (off : Offset) (d : Target) :
    readTarget { s with events := es } off d = readTarget s off d := by
  cases d <;> rfl

/-- A read that takes no free value changes nothing but the bus response (R51, R56). -/
theorem step_of_read {s : State} {rest : List Event} {off : Offset} {d : Target}
    (hev : s.events = .host (.read off 4) :: rest) (ha : off.toNat % 4 = 0) (ht : target off = d)
    (hd : ∀ s' : State, drawsFree s' d = false) :
    step s = .next { s with events := rest, port := .data (readTarget s off d) } := by
  rw [step_of_event s _ rest hev]
  change Host.Outcome.next (State.transact _ _) = _
  rw [State.transact, if_pos (legalAccess_of_aligned ha), ht, hd, readTarget_events]
  rfl

/-- Settles O39: the offset names the target, and the target's word is the number of its fields. -/
theorem controlRegistersReadTheirFields : Obligations.ControlRegistersReadTheirFields := by
  intro s rest off v hev hv
  have key : ∀ d : Target, off.toNat % 4 = 0 → target off = d → (∀ s' : State, drawsFree s' d = false) →
      v.toNat = (readTarget s off d).toNat → step s = .next { s with events := rest, port := .data v } := by
    intro d ha ht hd hw
    rw [BitVec.eq_of_toNat_eq hw]
    exact step_of_read hev ha ht hd
  obtain ⟨rfl, rfl⟩ | ⟨rfl, h⟩ | ⟨rfl, h⟩ | ⟨rfl, rfl⟩ | ⟨rfl, h⟩ | ⟨rfl, h⟩ | ⟨ha, hoff, rfl⟩ := hv
  · exact key .id rfl rfl (fun _ => rfl) rfl
  · exact key .ctrl rfl rfl (fun _ => rfl) (h.trans (ctrlWord_toNat _).symm)
  · exact key .status rfl rfl (fun _ => rfl) (h.trans (Status.word_toNat _).symm)
  · exact key .cmd rfl rfl (fun _ => rfl) rfl
  · exact key .errcode rfl rfl (fun _ => rfl) (h.trans (BitVec.toNat_setWidth_of_le (by decide)).symm)
  · exact key .flags rfl rfl (fun _ => rfl) (h.trans (Flags.word_toNat _).symm)
  · exact key .reserved ha (target_of_reserved hoff) (fun _ => rfl) rfl

/-! ### Writes -/

/-- An aligned 32-bit write has its target's effect, and the bus acknowledges it (R50, R250). -/
theorem step_of_write {s : State} {rest : List Event} {off : Offset} {v : BusWord} {d : Target}
    (hev : s.events = .host (.write off 4 v) :: rest) (ha : off.toNat % 4 = 0) (ht : target off = d) :
    step s = .next { State.writeTarget { s with events := rest } v d with port := .ack } := by
  rw [step_of_event s _ rest hev]
  change Host.Outcome.next (State.transact _ _) = _
  rw [State.transact, if_pos (legalAccess_of_aligned ha), ht]

/-- While BUSY a CMD or window write is dropped (R250). -/
theorem writeTarget_busy {s : State} (v : BusWord) {d : Target} (hb : s.status.busy = true)
    (hd : d = .cmd ∨ ∃ i j, d = .window i j) : s.writeTarget v d = s.dropWrite := by
  obtain rfl | ⟨i, j, rfl⟩ := hd
  · exact if_pos hb
  · exact if_pos hb

/-- Settles O42, by the target of each offset range. -/
theorem droppedAndIgnoredWrites : Obligations.DroppedAndIgnoredWrites := by
  intro s rest off v hev ha
  constructor
  · intro hoff hb
    have ht : target off = .cmd ∨ ∃ i j, target off = .window i j := by
      refine hoff.imp (fun hcmd => ?_) target_of_window
      obtain rfl : off = 0x00C#12 := BitVec.eq_of_toNat_eq hcmd
      rfl
    rw [step_of_write hev ha rfl, writeTarget_busy (s := { s with events := rest }) v hb ht]
    rfl
  · intro hoff
    obtain ht | ht | ht | ht := target_ignores_writes hoff <;> exact step_of_write hev ha ht

theorem Status.writeOneToClear_eq_ite (t : Status) (v : BusWord) : t.writeOneToClear v =
    { busy := t.busy
      done := if v.getLsbD 1 then false else t.done
      err := if v.getLsbD 2 then false else t.err
      ovr := if v.getLsbD 3 then false else t.ovr } := by
  simp [Status.writeOneToClear, Bool.and_comm]

/-- Settles O43, by the bitwise clear that a STATUS write is. -/
theorem statusWriteClearsOnes : Obligations.StatusWriteClearsOnes := by
  intro s rest v hev
  rw [← Status.writeOneToClear_eq_ite]
  exact step_of_write hev rfl rfl

theorem writeTarget_ctrl_enable (s : State) {v : BusWord} (h1 : v.getLsbD 1 = false) :
    s.writeTarget v .ctrl = { s with ie := v.getLsbD 0 } :=
  if_neg (ne_true_of_eq_false h1)

/-- Settles O44, by the CTRL write whose SRST is 0. -/
theorem ctrlWriteSetsInterruptEnable : Obligations.CtrlWriteSetsInterruptEnable := by
  intro s rest v hev h1
  have hstep := step_of_write hev rfl (d := .ctrl) rfl
  rw [writeTarget_ctrl_enable _ h1] at hstep
  exact ⟨_, hstep, rfl, rfl⟩

/-! ### What only a completion or a reset changes -/

theorem accessNext_of_head {s : State} {e : Event} (he : s.events.head? = some e) : accessNext s = accessOf e := by
  simp [accessNext, he]

theorem not_isReset_of_host {s : State} {a : Access} (hr : ¬ resetsNext s)
    (he : s.events.head? = some (.host a)) : ¬ isReset (.host a) :=
  fun hra => hr ⟨_, he, hra⟩

/-- A host access resets the block in the clock cycle of a completion just as it does alone (R208). -/
theorem isReset_coincide (a : Access) (b : Bool) : isReset (.coincide a b) ↔ isReset (.host a) := by
  simp [isReset, accessOf]

theorem not_isReset_of_coincide {s : State} {a : Access} {b : Bool} (hr : ¬ resetsNext s)
    (he : s.events.head? = some (.coincide a b)) : ¬ isReset (.host a) :=
  fun hra => hr ⟨_, he, (isReset_coincide a b).2 hra⟩

/-- Where the engine acts and completes nothing, nothing is in flight. -/
theorem pending_none_of_not_completes {s : State} (hc : ¬ completesNext s)
    (he : s.events = [] ∨ ∃ e, s.events.head? = some e ∧ isCompletion e = true) :
    s.popEvent.pending = none :=
  by_contra fun hp => hc ⟨hp, he⟩

/-- A CTRL write that is no reset has SRST 0. -/
theorem srst_of_not_reset {off : Offset} {w : BusWord} (hr : ¬ isReset (.host (.write off 4 w)))
    (hd : target off = .ctrl) : w.getLsbD 1 ≠ true := by
  obtain rfl := eq_of_target_eq_ctrl hd
  exact fun h1 => hr (.inr ⟨w, rfl, h1⟩)

/-- No write but an accepted CMD write brings a command in flight. -/
theorem WriteEffect.pending_none {s t : State} {w : BusWord} {d : Target} (h : WriteEffect s w d t)
    (hd : d ≠ .cmd) (hp : s.pending = none) : t.pending = none := by
  cases h with
  | accepted | cmdDropped => exact absurd rfl hd
  | softReset => rfl
  | ignored | enable | status | windowDropped | window => exact hp

/-- A host access that acts before a completion in its clock cycle brings no command in flight (R208). -/
theorem transact_pending_none {s : State} {a : Access} {b : Bool} (hf : actsFirst a b = true)
    (hp : s.pending = none) : (s.transact a).pending = none := by
  obtain ⟨port, draws, e⟩ | ⟨off, w, t, rfl, ha, h, e⟩ := transact_cases s a
  · rw [e]; exact hp
  · rw [e]
    refine h.pending_none (fun hd => ?_) hp
    simp [actsFirst, Access.writes, legalAccess_of_aligned ha, hd] at hf

/-- A step that completes no command in flight and is no reset is at most one host transaction. -/
theorem step_of_no_completion {s t : State} (h : step s = .next t) (hc : ¬ completesNext s) (hr : ¬ resetsNext s) :
    t = s.popEvent ∨ ∃ a, accessNext s = some a ∧ ¬ isReset (.host a) ∧ t = s.popEvent.transact a := by
  cases step_effect h with
  | reset he => exact absurd ⟨_, he, .inl rfl⟩ hr
  | host a he => exact .inr ⟨a, accessNext_of_head he, not_isReset_of_host hr he, rfl⟩
  | engine _ he ht =>
    have hp := pending_none_of_not_completes hc (he.imp_right fun he => ⟨_, he, rfl⟩)
    exact .inl (eq_of_engineStep_idle hp ht)
  | hostThenEngine a b _ he hf ht =>
    have hp := pending_none_of_not_completes hc (.inr ⟨_, he, rfl⟩)
    exact .inr ⟨a, accessNext_of_head he, not_isReset_of_coincide hr he,
      eq_of_engineStep_idle (transact_pending_none hf hp) ht⟩
  | engineThenHost a b u he hf hu =>
    have hp := pending_none_of_not_completes hc (.inr ⟨_, he, rfl⟩)
    obtain rfl := eq_of_engineStep_idle hp hu
    exact .inr ⟨a, accessNext_of_head he, not_isReset_of_coincide hr he, rfl⟩

theorem WriteEffect.errcode_flags {s t : State} {w : BusWord} {d : Target} (h : WriteEffect s w d t)
    (hr : d = .ctrl → w.getLsbD 1 ≠ true) : t.errcode = s.errcode ∧ t.flags = s.flags := by
  cases h with
  | softReset h1 => exact absurd h1 (hr rfl)
  | ignored | enable | status | accepted | cmdDropped | windowDropped | window => exact ⟨rfl, rfl⟩

theorem transact_errcode_flags {s : State} {a : Access} (hr : ¬ isReset (.host a)) :
    (s.transact a).errcode = s.errcode ∧ (s.transact a).flags = s.flags := by
  obtain ⟨port, draws, e⟩ | ⟨off, w, t, rfl, -, h, e⟩ := transact_cases s a
  · rw [e]; exact ⟨rfl, rfl⟩
  · rw [e]; exact h.errcode_flags (srst_of_not_reset hr)

/-- Settles O53: what such a step can be is a host transaction that is no reset. -/
theorem errcodeAndFlagsChangeOnlyAtCompletion : Obligations.ErrcodeAndFlagsChangeOnlyAtCompletion := by
  intro s t h hc hr
  obtain rfl | ⟨a, -, hra, rfl⟩ := step_of_no_completion h hc hr
  · exact ⟨rfl, rfl⟩
  · exact transact_errcode_flags hra

/-- A write that changes `R[r]` is an idle write of one of its words (R55, R250), or a reset. -/
theorem WriteEffect.of_getReg_ne {s t : State} {w : BusWord} {d : Target} {r : Reg} (h : WriteEffect s w d t)
    (hr : d = .ctrl → w.getLsbD 1 ≠ true) (hne : getReg t.regs r ≠ getReg s.regs r) :
    s.status.busy = false ∧ ∃ j, d = .window r j := by
  cases h with
  | softReset h1 => exact absurd h1 (hr rfl)
  | ignored | enable | status | accepted | cmdDropped | windowDropped => exact absurd rfl hne
  | window i j hb =>
    obtain rfl : r = i := by_contra fun hri => hne (getReg_setReg_of_ne _ _ _ _ hri)
    exact ⟨hb, j, rfl⟩

theorem transact_of_getReg_ne {s : State} {a : Access} {r : Reg} (hr : ¬ isReset (.host a))
    (hne : getReg (s.transact a).regs r ≠ getReg s.regs r) :
    s.status.busy = false ∧ ∃ (j : Fin 8) (v : BusWord),
      a = .write (BitVec.ofNat 12 (0x100 + 32 * r.val + 4 * j.val)) 4 v := by
  obtain ⟨port, draws, e⟩ | ⟨off, w, t, rfl, ha, h, e⟩ := transact_cases s a
  · rw [e] at hne; exact absurd rfl hne
  · rw [e] at hne
    obtain ⟨hb, j, hd⟩ := h.of_getReg_ne (srst_of_not_reset hr) hne
    exact ⟨hb, j, w, by rw [eq_of_target_eq_window ha hd]⟩

/-- Settles O54: the step's host transaction is an idle write of one of the register's words. -/
theorem registersChangeOnlyByTheirEvents : Obligations.RegistersChangeOnlyByTheirEvents := by
  intro s t r h hc hr hne
  obtain rfl | ⟨a, ha, hra, rfl⟩ := step_of_no_completion h hc hr
  · exact absurd rfl hne
  · obtain ⟨hb, j, v, rfl⟩ := transact_of_getReg_ne hra hne
    exact ⟨hb, j, v, ha⟩

/-! ### The sticky bits of STATUS -/

/-- A sticky bit, bit `k` of STATUS, goes from `b` to `b'` and falls only by the access `a`, a 32-bit STATUS write with
bit `k` set (R29). -/
def FallsOnlyBy (a : Option Access) (k : Nat) (b b' : Bool) : Prop :=
  b = true → b' = false → ∃ v : BusWord, a = some (.write 0x008#12 4 v) ∧ v.getLsbD k = true

/-- From `s` to `t`, ERR and OVR fall only by the access `a` (R29). -/
def StickyUnder (a : Option Access) (s t : State) : Prop :=
  FallsOnlyBy a 2 s.status.err t.status.err ∧ FallsOnlyBy a 3 s.status.ovr t.status.ovr

theorem FallsOnlyBy.of_kept {a : Option Access} {k : Nat} {b b' : Bool} (h : b = true → b' = true) :
    FallsOnlyBy a k b b' :=
  fun hb hb' => absurd (h hb) (ne_true_of_eq_false hb')

theorem FallsOnlyBy.trans {a : Option Access} {k : Nat} {b c d : Bool} (h : FallsOnlyBy a k b c)
    (h' : FallsOnlyBy a k c d) : FallsOnlyBy a k b d := by
  intro hb hd
  cases c with
  | false => exact h hb rfl
  | true => exact h' rfl hd

theorem StickyUnder.of_kept {s t : State} (a : Option Access) (he : s.status.err = true → t.status.err = true)
    (ho : s.status.ovr = true → t.status.ovr = true) : StickyUnder a s t :=
  ⟨.of_kept he, .of_kept ho⟩

theorem StickyUnder.trans {a : Option Access} {s u t : State} (h : StickyUnder a s u) (h' : StickyUnder a u t) :
    StickyUnder a s t :=
  ⟨h.1.trans h'.1, h.2.trans h'.2⟩

/-- The engine never lowers ERR or OVR (R93, R203, R211). -/
theorem engineStep_sticky {s t : State} (a : Option Access) (h : engineStep s = .next t) : StickyUnder a s t := by
  obtain ⟨-, rfl⟩ | ⟨-, he⟩ := engineStep_cases h
  · exact .of_kept a id id
  · cases he with
    | error o _ => exact .of_kept a (fun hs => by simp [hs]) id
    | ok regs flags => exact .of_kept a (fun hs => by simpa using hs) id

theorem WriteEffect.sticky {s t : State} {off : Offset} {w : BusWord} {d : Target} (h : WriteEffect s w d t)
    (hd : target off = d) (hr : d = .ctrl → w.getLsbD 1 ≠ true) : StickyUnder (some (.write off 4 w)) s t := by
  cases h with
  | softReset h1 => exact absurd h1 (hr rfl)
  | ignored | enable | accepted | window => exact .of_kept _ id id
  | cmdDropped | windowDropped => exact .of_kept _ id fun _ => rfl
  | status =>
    obtain rfl := eq_of_target_eq_status hd
    exact ⟨fun hs ht => ⟨w, rfl, by simpa [hs] using ht⟩, fun hs ht => ⟨w, rfl, by simpa [hs] using ht⟩⟩

theorem transact_sticky {s : State} {a : Access} (hr : ¬ isReset (.host a)) :
    StickyUnder (some a) s (s.transact a) := by
  obtain ⟨port, draws, e⟩ | ⟨off, w, t, rfl, -, h, e⟩ := transact_cases s a
  · rw [e]; exact .of_kept _ id id
  · rw [e]; exact h.sticky rfl (srst_of_not_reset hr)

/-- Settles O52: neither part of a step, the engine's or the host's, lowers a bit otherwise. -/
theorem errAndOvrAreSticky : Obligations.ErrAndOvrAreSticky := by
  intro s t h hr
  change StickyUnder (accessNext s) s t
  have hpop : StickyUnder (accessNext s) s s.popEvent := .of_kept _ id id
  refine hpop.trans ?_
  cases step_effect h with
  | reset he => exact absurd ⟨_, he, .inl rfl⟩ hr
  | engine _ _ ht => exact engineStep_sticky _ ht
  | host a he =>
    rw [accessNext_of_head he]
    exact transact_sticky (not_isReset_of_host hr he)
  | hostThenEngine a b _ he _ ht =>
    rw [accessNext_of_head he]
    exact (transact_sticky (not_isReset_of_coincide hr he)).trans (engineStep_sticky _ ht)
  | engineThenHost a b u he _ hu =>
    rw [accessNext_of_head he]
    exact (engineStep_sticky _ hu).trans (transact_sticky (not_isReset_of_coincide hr he))

end Sys2Proof.Machine
end

section
/-! SUPPORT. The register window as memory: illegal accesses, reads, the words of a register, the byte lanes of a word,
and the statements of 20_memory.md about them. -/

namespace Sys2Proof.Machine

/-! ### Illegal accesses and reads -/

theorem legalAccess_eq_false {off : Offset} {size : Nat} (h : size ≠ 4 ∨ off.toNat % 4 ≠ 0) :
    legalAccess off size = false := by
  simpa [legalAccess, imp_iff_not_or] using h

/-- Settles O37: the access is not legal, so the bus error is all there is. -/
theorem illegalAccessIsABusError : Obligations.IllegalAccessIsABusError := by
  intro s rest off size v h
  have hlegal := legalAccess_eq_false h
  constructor
  all_goals
    intro hev
    rw [step_of_event s _ rest hev, runEvent, hostStep_eq, State.transact, hlegal]
    rfl

/-- A read touches nothing but the bus response and the draw count (R56). -/
theorem transact_read (s : State) (off : Offset) (size : Nat) :
    ∃ port draws, s.transact (.read off size) = { s with port := port, draws := draws } := by
  obtain h | ⟨_, _, _, ha, -⟩ := transact_cases s (.read off size)
  · exact h
  · cases ha

/-- Settles O38: a step whose event is a read is that read. -/
theorem readsHaveNoSideEffect : Obligations.ReadsHaveNoSideEffect := by
  intro s rest off size hev
  obtain ⟨port, draws, h⟩ := transact_read { s with events := rest } off size
  exact ⟨port, draws, by rw [step_of_event s _ rest hev, runEvent, hostStep_eq, h]⟩

/-! ### Words of a register -/

/-- The offset of word j of `R[i]` decodes to that word (R54). -/
theorem target_of_windowOffset {off : Offset} {i : Reg} {j : Fin 8}
    (h : off.toNat = 0x100 + 32 * i.val + 4 * j.val) : target off = .window i j := by
  have ht := target_at off
  generalize target off = d at ht ⊢
  cases ht with
  | window =>
    congr 1
    · apply Fin.ext
      simp only [Fin.ofNat]
      omega
    · apply Fin.ext
      simp only [Fin.ofNat]
      omega
  | reserved => omega
  | id | ctrl | status | cmd | errcode | flags => omega

theorem wordOf_toNat (v : Word) (j : Fin 8) : (wordOf v j).toNat = v.toNat / 2 ^ (32 * j.val) % 2 ^ 32 := by
  rw [wordOf, BitVec.extractLsb'_toNat, Nat.shiftRight_eq_div_pow]

theorem readTarget_window_idle {s : State} (off : Offset) (i : Reg) (j : Fin 8) (hb : s.status.busy = false) :
    readTarget s off (.window i j) = wordOf (getReg s.regs i) j :=
  if_neg (ne_true_of_eq_false hb)

theorem readTarget_window_busy {s : State} (off : Offset) (i : Reg) (j : Fin 8) (hb : s.status.busy = true) :
    readTarget s off (.window i j) = Config.busyWindowRead s.draws off s.cmd s.regs :=
  if_pos hb

/-- An aligned 32-bit read answers with its target's word and counts a free value if it takes one (R51, R251). -/
theorem step_of_legal_read {s : State} {rest : List Event} {off : Offset} {d : Target}
    (hev : s.events = .host (.read off 4) :: rest) (ha : off.toNat % 4 = 0) (ht : target off = d) :
    step s = .next
      { s with
        events := rest
        port := .data (readTarget s off d)
        draws := if drawsFree s d then s.draws + 1 else s.draws } := by
  rw [step_of_event s _ rest hev, runEvent, hostStep_eq, State.transact, if_pos (legalAccess_of_aligned ha), ht,
    readTarget_events]
  cases d <;> rfl

/-- Settles O40: the offset decodes to the word, which BUSY answers with a free value. -/
theorem windowReadReturnsItsWord : Obligations.WindowReadReturnsItsWord := by
  intro s rest i j off hoff hev
  have hstep := step_of_legal_read hev (by omega) (target_of_windowOffset hoff)
  constructor
  · intro hb
    rw [readTarget_window_idle off i j hb] at hstep
    refine ⟨_, wordOf_toNat _ j, ?_⟩
    simpa [drawsFree, hb] using hstep
  · intro hb
    rw [readTarget_window_busy off i j hb] at hstep
    simpa [drawsFree, hb] using hstep

/-- Bit b of a register with word j replaced comes from the new word inside that word, and is kept outside (R55). -/
theorem getLsbD_replaceWord (v : Word) (j : Fin 8) (w : BusWord) {b : Nat} (hb : b < 256) :
    (replaceWord v j w).getLsbD b = if b / 32 = j.val then w.getLsbD (b % 32) else v.getLsbD b := by
  have hmask : (0xFFFFFFFF#256) = (BitVec.allOnes 32).setWidth 256 := by decide
  rw [replaceWord, hmask]
  simp only [BitVec.getLsbD_or, BitVec.getLsbD_and, BitVec.getLsbD_not, BitVec.getLsbD_shiftLeft,
    BitVec.getLsbD_setWidth, BitVec.getLsbD_allOnes]
  split
  next h =>
    have hlow : b - 32 * j.val = b % 32 := by omega
    have hge : ¬ b < 32 * j.val := by omega
    have hlt : b % 32 < 256 := by omega
    have hlt' : b % 32 < 32 := by omega
    simp [hb, hlow, hge, hlt, hlt']
  next h =>
    by_cases hlt : b < 32 * j.val
    · simp [hb, hlt]
    · have hge : ¬ b - 32 * j.val < 32 := by omega
      simp [hb, hlt, hge, BitVec.getLsbD_of_ge w _ (Nat.not_lt.mp hge)]

theorem wordOf_replaceWord (v : Word) (j k : Fin 8) (w : BusWord) :
    wordOf (replaceWord v j w) k = if k = j then w else wordOf v k := by
  apply BitVec.eq_of_getLsbD_eq
  intro b hb
  have hdiv : (32 * k.val + b) / 32 = k.val := by omega
  have hmod : (32 * k.val + b) % 32 = b := by omega
  rw [wordOf, BitVec.getLsbD_extractLsb', getLsbD_replaceWord v j w (by omega), hdiv, hmod]
  by_cases h : k = j
  · simp [h, hb]
  · simp [h, hb, Fin.val_ne_of_ne h, wordOf]

theorem writeTarget_window_idle {s : State} (i : Reg) (j : Fin 8) (w : BusWord) (hb : s.status.busy = false) :
    s.writeTarget w (.window i j) = { s with regs := setReg s.regs i (replaceWord (getReg s.regs i) j w) } :=
  if_neg (ne_true_of_eq_false hb)

/-- Settles O41: the words of the replaced value, and the dropped write. -/
theorem windowWriteReplacesOneWord : Obligations.WindowWriteReplacesOneWord := by
  intro s rest i j off v hoff hev
  have hstep := step_of_write hev (by omega) (target_of_windowOffset hoff)
  constructor
  · intro hb
    rw [writeTarget_window_idle (s := { s with events := rest }) i j v hb] at hstep
    refine ⟨_, hstep, ?_, fun k hk => ?_⟩
    · exact (wordOf_replaceWord _ j j v).trans (if_pos rfl)
    · exact (wordOf_replaceWord _ j k v).trans (if_neg hk)
  · intro hb
    rw [writeTarget_busy (s := { s with events := rest }) v hb (.inr ⟨i, j, rfl⟩)] at hstep
    exact hstep

/-! ### Byte lanes -/

theorem offsetOf_base_add {a : Nat} (h : a < 4096) :
    ∃ off, offsetOf (Config.base + a) = some off ∧ off.toNat = a := by
  refine ⟨BitVec.ofNat 12 a, ?_, Nat.mod_eq_of_lt h⟩
  rw [offsetOf, if_pos (by omega), Nat.add_sub_cancel_left]

/-- Lane k of word j of a register is its bits 32j+8k+7 : 32j+8k (R53, R54). -/
theorem lane_wordOf (v : Word) (j : Fin 8) (k : Fin 4) :
    lane (wordOf v j) k = v.extractLsb' (32 * j.val + 8 * k.val) 8 := by
  apply BitVec.eq_of_getLsbD_eq
  intro b hb
  have hword : 8 * k.val + b < 32 := by omega
  simp [lane, wordOf, hb, hword, Nat.add_assoc]

theorem lane_wordOf_toNat (v : Word) (j : Fin 8) (k : Fin 4) :
    (lane (wordOf v j) k).toNat = v.toNat / 2 ^ (32 * j.val + 8 * k.val) % 2 ^ 8 := by
  rw [lane_wordOf, BitVec.extractLsb'_toNat, Nat.shiftRight_eq_div_pow]

/-- While idle the byte k after the offset of word j of `R[i]` is lane k of that word (R53, R54). -/
theorem busByte_window_idle {s : State} {addr : Nat} {off : Offset} {i : Reg} {j : Fin 8} {k : Fin 4}
    (hoff : offsetOf addr = some off) (hval : off.toNat = 0x100 + 32 * i.val + 4 * j.val + k.val)
    (hb : s.status.busy = false) : s.busByte addr = some (lane (wordOf (getReg s.regs i) j) k) := by
  have hword : (wordOffset off).toNat = 0x100 + 32 * i.val + 4 * j.val := by
    rw [wordOffset, hval, BitVec.toNat_ofNat]
    omega
  have hlane : Fin.ofNat 4 off.toNat = k := by
    apply Fin.ext
    rw [hval]
    simp only [Fin.ofNat]
    omega
  rw [State.busByte, hoff, Option.map_some, target_of_windowOffset hword, readTarget_window_idle _ i j hb, hlane]

/-- Settles O45, by the lane of the word at the byte's aligned offset. -/
theorem byteLanesAreLittleEndian : Obligations.ByteLanesAreLittleEndian := by
  intro s i j k hb
  obtain ⟨off, hoff, hval⟩ := offsetOf_base_add (a := 0x100 + 32 * i.val + 4 * j.val + k.val) (by omega)
  rw [← Nat.add_assoc] at hoff
  exact ⟨_, busByte_window_idle hoff hval hb, lane_wordOf_toNat _ j k⟩

end Sys2Proof.Machine
end

section
/-! SUPPORT. What a completion depends on (R91): the command and its snapshot. So host accesses while a command is in
flight, which leave the snapshot, the registers and FLAGS alone, do not disturb it. -/

namespace Sys2Proof.Machine

open Sys2Proof.Stated

/-! ### A command's result follows from its snapshot -/

/-- Two results, of `s` and of `s'`, are the same completion: the same error, or the same values written to the same
registers and flags (R91, R94). -/
inductive SameCompletion (s s' : State) : Result → Result → Prop where
  | error (o : OutcomeCode) : SameCompletion s s' (raise o s) (raise o s')
  | nothing : SameCompletion s s' (writeNothing s) (writeNothing s')
  | reg (rd : Reg) (v : Word) : SameCompletion s s' (writeReg rd v s) (writeReg rd v s')
  | pair (rd : Reg) (q : Point) : SameCompletion s s' (writePair rd q s) (writePair rd q s')
  | setZ (b : Bool) : SameCompletion s s' (writeFlags (s.flags.setZ b) s) (writeFlags (s'.flags.setZ b) s')
  | setCmp (e l : Bool) : SameCompletion s s' (writeFlags (s.flags.setCmp e l) s) (writeFlags (s'.flags.setCmp e l) s')
  | setNone (b : Bool) : SameCompletion s s' (writeFlags (s.flags.setNone b) s) (writeFlags (s'.flags.setNone b) s')
  | regPassed (rd : Reg) (v : Word) : SameCompletion s s' (writeRegPassed rd v s) (writeRegPassed rd v s')
  | pairPassed (rd : Reg) (q : Point) : SameCompletion s s' (writePairPassed rd q s) (writePairPassed rd q s')

theorem SameCompletion.ite {s s' : State} {c : Prop} [Decidable c] {q r q' r' : Result}
    (h : SameCompletion s s' q q') (h' : SameCompletion s s' r r') :
    SameCompletion s s' (if c then q else r) (if c then q' else r') := by
  split <;> assumption

theorem SameCompletion.withPairs {s s' : State} {body body' : State → Result} (pairs : List Reg)
    (h : SameCompletion s s' (body s) (body' s')) :
    SameCompletion s s' (withPairs pairs s body) (withPairs pairs s' body') :=
  .ite h (.error .illegal)

/-- R91: a command's completion follows from the command and the snapshot alone. -/
theorem exec_sameCompletion (i : Instr) {s s' : State} (h : s'.snapshot = s.snapshot) :
    SameCompletion s s' (exec i s) (exec i s') := by
  have hreg : s'.opReg = s.opReg := by funext r; rw [State.opReg, h]; rfl
  have hpair : s'.opPair = s.opPair := by funext r; rw [State.opPair, h]; rfl
  have hcanon : s'.canonOp = s.canonOp := by funext r; rw [State.canonOp, hreg]; rfl
  have hvalid : s'.validOp = s.validOp := by funext r; rw [State.validOp, hpair]; rfl
  cases i with
  | nop => exact .nothing
  | mov | fred =>
    simp only [exec, execMov, execFred, hreg]
    exact .reg _ _
  | ldi => exact .reg _ _
  | ldc rd imm16 =>
    simp only [exec, execLdc]
    cases rom imm16 with
    | some v => exact .reg rd v
    | none => exact .error .illegal
  | sinv rd ra =>
    simp only [exec, execSinv, hreg]
    cases sinv (s.opReg ra) with
    | some v => exact .reg rd v
    | none => exact .error .divByZero
  | fadd | fsub | fneg | fmul | fmuls =>
    simp only [exec, execFadd, execFsub, execFneg, execFmul, execFmuls, hreg, hcanon]
    exact .ite (.reg _ _) (.error _)
  | finv | fdiv =>
    simp only [exec, execFinv, execFdiv, hreg, hcanon]
    exact .ite (.ite (.error _) (.reg _ _)) (.error _)
  | fisz =>
    simp only [exec, execFisz, hreg]
    exact .setZ _
  | fcmp =>
    simp only [exec, execFcmp, hreg]
    exact .setCmp _ _
  | fchk =>
    simp only [exec, execFchk, hreg, hcanon]
    exact .ite (.regPassed _ _) (.setNone _)
  | pchk =>
    simp only [exec, execPchk]
    refine .withPairs _ ?_
    simp only [hpair, hvalid]
    exact .ite (.pairPassed _ _) (.setNone _)
  | padd | pdbl | pneg | pmul =>
    simp only [exec, execPadd, execPdbl, execPneg, execPmul]
    refine .withPairs _ ?_
    simp only [hreg, hpair, hvalid]
    exact .ite (.pair _ _) (.error _)
  | pisinf =>
    simp only [exec, execPisinf]
    refine .withPairs _ ?_
    simp only [hpair]
    exact .setZ _
  | pcmp =>
    simp only [exec, execPcmp]
    refine .withPairs _ ?_
    simp only [hpair]
    exact .setCmp _ _

/-- A completion's registers, FLAGS and ERRCODE agree in two states with the same registers and flags. -/
theorem SameCompletion.same_results {s s' : State} {r r' : Result} (h : SameCompletion s s' r r')
    (hregs : s'.regs = s.regs) (hflags : s'.flags = s.flags) :
    ∃ t t', r = .next t ∧ r' = .next t' ∧ t'.regs = t.regs ∧ t'.flags = t.flags ∧ t'.errcode = t.errcode := by
  cases h <;> exact ⟨_, _, rfl, rfl, by simp [hregs], by simp [hflags], rfl⟩

/-! ### What the host leaves alone while a command is in flight -/

/-- `t` holds the command in flight, the registers and the flags that `s` holds, and BUSY is 1 in it if in `s`. -/
structure SameCommand (s t : State) : Prop where
  regs : t.regs = s.regs
  flags : t.flags = s.flags
  cmd : t.cmd = s.cmd
  pending : t.pending = s.pending
  busy : t.status.busy = s.status.busy

theorem SameCommand.refl (s : State) : SameCommand s s := ⟨rfl, rfl, rfl, rfl, rfl⟩

theorem SameCommand.trans {s t u : State} (h : SameCommand s t) (h' : SameCommand t u) : SameCommand s u where
  regs := h'.regs.trans h.regs
  flags := h'.flags.trans h.flags
  cmd := h'.cmd.trans h.cmd
  pending := h'.pending.trans h.pending
  busy := h'.busy.trans h.busy

theorem State.popEvent_sameCommand (s : State) : SameCommand s s.popEvent := ⟨rfl, rfl, rfl, rfl, rfl⟩

/-- While BUSY every write that is no reset leaves the command in flight, the registers and FLAGS alone (R65, R250). -/
theorem WriteEffect.sameCommand {s t : State} {w : BusWord} {d : Target} (h : WriteEffect s w d t)
    (hb : s.status.busy = true) (hr : d = .ctrl → w.getLsbD 1 ≠ true) : SameCommand s t := by
  cases h with
  | softReset h1 => exact absurd h1 (hr rfl)
  | accepted hidle | window _ _ hidle => exact absurd hb (ne_true_of_eq_false hidle)
  | ignored | enable | status | cmdDropped | windowDropped => exact ⟨rfl, rfl, rfl, rfl, rfl⟩

theorem transact_sameCommand {s : State} {a : Access} (hb : s.status.busy = true) (hr : ¬ isReset (.host a)) :
    SameCommand s (s.transact a) := by
  obtain ⟨port, draws, e⟩ | ⟨off, w, t, rfl, -, h, e⟩ := transact_cases s a
  · rw [e]; exact ⟨rfl, rfl, rfl, rfl, rfl⟩
  · rw [e]
    exact (h.sameCommand hb (srst_of_not_reset hr)).trans ⟨rfl, rfl, rfl, rfl, rfl⟩

/-- A run through host accesses that are no resets, all of them while a command is in flight, leaves it in flight. -/
theorem reaches_of_hosts (as : List Access) {s : State} {rest : List Event} (hb : s.status.busy = true)
    (hr : ∀ a ∈ as, ¬ isReset (.host a)) (hev : s.events = as.map Event.host ++ rest) :
    ∃ t, Reaches as.length s t ∧ t.events = rest ∧ SameCommand s t := by
  induction as generalizing s with
  | nil => exact ⟨s, rfl, hev, .refl s⟩
  | cons a as ih =>
    obtain ⟨ha, has⟩ := List.forall_mem_cons.1 hr
    have hstep : step s = .next (s.popEvent.transact a) := by
      rw [step_of_event s _ _ hev, State.popEvent_of_event hev]
      rfl
    have hsame : SameCommand s (s.popEvent.transact a) := s.popEvent_sameCommand.trans (transact_sameCommand hb ha)
    have hnext : (s.popEvent.transact a).events = as.map Event.host ++ rest := by
      rw [State.transact_events, State.popEvent_events, hev]
      rfl
    obtain ⟨t, hreach, hrest, hst⟩ := ih (hsame.busy.trans hb) has hnext
    exact ⟨t, ⟨_, hstep, hreach⟩, hrest, hsame.trans hst⟩

theorem Reaches.snoc {k : Nat} {s t u : State} (h : Reaches k s t) (hu : step t = .next u) : Reaches (k + 1) s u := by
  induction k generalizing s with
  | zero =>
    obtain rfl : t = s := h
    exact ⟨u, hu, rfl⟩
  | succ k ih =>
    obtain ⟨v, hv, hreach⟩ := h
    exact ⟨v, hv, ih hreach⟩

/-! ### The completion of the command in flight -/

/-- The same command in flight completes with the same results (R91, R93). -/
theorem engineStep_of_sameCommand {s s' t : State} (h : SameCommand s s') (hp : s.pending ≠ none)
    (ht : engineStep s = .next t) :
    ∃ t', engineStep s' = .next t' ∧ t'.regs = t.regs ∧ t'.flags = t.flags ∧ t'.errcode = t.errcode := by
  obtain ⟨f, hf⟩ := Option.ne_none_iff_exists'.1 hp
  have hf' : s'.pending = some f := h.pending.trans hf
  have hsnap : s'.snapshot = s.snapshot := by rw [snapshot_of_pending s' f hf', snapshot_of_pending s f hf]
  have hsame : SameCompletion s s' (engineStep s) (engineStep s') := by
    simp only [engineStep, hf, hf']
    cases decode f.word with
    | ok i => exact exec_sameCompletion i hsnap
    | error => exact .error .illegal
  obtain ⟨u, t', hu, ht', hres⟩ := hsame.same_results h.regs h.flags
  cases hu.symm.trans ht
  exact ⟨t', ht', hres⟩

/-- After a completion DONE is 1, nothing is in flight and CMD is kept (R93). -/
theorem CommandEffect.completed {s t : State} (h : CommandEffect s (.next t)) :
    t.status.done = true ∧ t.pending = none ∧ t.cmd = s.cmd := by
  cases h with
  | error o _ => exact ⟨rfl, rfl, rfl⟩
  | ok regs flags => exact ⟨rfl, rfl, rfl⟩

/-- In a state of the invariant the word in flight is the one CMD reads back, and BUSY is 1 (R30, R31). -/
theorem State.Inv.of_pending {s : State} {f : InFlight} (hi : s.Inv) (hp : s.pending = some f) :
    s.status.busy = true ∧ s.cmd = f.word := by
  obtain ⟨hb, hnone | ⟨hf, -⟩, -⟩ := hi
  · simp [hnone] at hp
  · rw [hp] at hb hf
    cases hf
    exact ⟨hb, rfl⟩

/-- Settles O56: host accesses that do not reset the block keep the snapshot, the registers and FLAGS, and the
completion follows from these. -/
theorem hostCannotDisturbACommandInFlight : Obligations.HostCannotDisturbACommandInFlight := by
  intro s u f as rest hi hp hr hev hu
  obtain ⟨hb, hcmd⟩ := hi.of_pending hp
  obtain ⟨v, hreach, hrest, hsame⟩ := reaches_of_hosts as hb hr hev
  have hpop : SameCommand s v.popEvent := hsame.trans v.popEvent_sameCommand
  have hpending : s.pending ≠ none := by simp [hp]
  obtain ⟨t, ht, hregs, hflags, herrcode⟩ := engineStep_of_sameCommand hpop hpending hu
  have hstep : step v = .next t := by
    rw [step_of_event v _ _ hrest, ← State.popEvent_of_event hrest]
    exact ht
  obtain ⟨hnone, -⟩ | ⟨-, heff⟩ := engineStep_cases ht
  · exact absurd (hpop.pending.symm.trans hnone) hpending
  · obtain ⟨hdone, hidle, htcmd⟩ := heff.completed
    exact ⟨t, hreach.snoc hstep, hdone, hidle, htcmd.trans (hpop.cmd.trans hcmd), hregs, hflags, herrcode⟩

end Sys2Proof.Machine
end

section
/-! SUPPORT. The encoding (30_encoding.md): the words that decode and what to, the round trips in both directions, and
the rows of the opcode table as the format rows of R85. -/

namespace Sys2Proof

/-! ### The rows of the opcode map -/

/-- The fields a format R row allows (R82, R86): each passes the check of its use. -/
def RowR.Allows (row : RowR) (rd ra rb : Reg) : Prop :=
  row.rd.check rd = none ∧ row.ra.check ra = none ∧ row.rb.check rb = none

/-- The decoder's search in the opcode map. -/
def rowOf (op : BitVec 8) : Option RowR := opcodeMap.find? (fun row => row.opcode == op)

/-- No two rows of the map have the same opcode (R85). -/
theorem rowOf_opcode {row : RowR} (h : row ∈ opcodeMap) : rowOf row.opcode = some row := by
  revert row
  simp only [opcodeMap, List.forall_mem_cons]
  exact ⟨rfl, rfl, rfl, rfl, rfl, rfl, rfl, rfl, rfl, rfl, rfl, rfl, rfl, rfl, rfl, rfl, rfl, rfl, rfl, rfl, rfl, nofun⟩

theorem mem_of_rowOf {op : BitVec 8} {row : RowR} (h : rowOf op = some row) : row ∈ opcodeMap ∧ row.opcode = op :=
  ⟨List.mem_of_find?_eq_some h, by simpa using List.find?_some h⟩

/-- The opcodes of LDI and LDC are in no format R row (R85). -/
theorem rowR_opcode_ne {row : RowR} (h : row ∈ opcodeMap) : row.opcode ≠ 0x02#8 ∧ row.opcode ≠ 0x03#8 := by
  constructor
  all_goals
    intro hop
    have hrow := rowOf_opcode h
    rw [hop] at hrow
    cases hrow

/-- With fields that a row allows, the row's command is well-formed and its word is the row's opcode and the fields. -/
theorem encode_make {row : RowR} (h : row ∈ opcodeMap) {rd ra rb : Reg} (ha : row.Allows rd ra rb) :
    (row.make rd ra rb).wellFormed = true ∧ encode (row.make rd ra rb) = formatR row.opcode rd ra rb := by
  revert row
  simp only [opcodeMap, List.forall_mem_cons, RowR.Allows, check_zero, check_reg, check_pair, Instr.wellFormed, encode,
    Instr.opcode]
  simp +contextual

/-! ### A word as its fields -/

theorem formatR_fields {w : BusWord} (hz : zeroField w = 0#12) :
    formatR (opField w) (rdField w) (raField w) (rbField w) = w := by
  have hlow := zeroField_toNat w
  rw [hz, BitVec.toNat_ofNat] at hlow
  apply BitVec.eq_of_toNat_eq
  rw [formatR_toNat, opField_toNat, rdField_val, raField_val, rbField_val]
  omega

theorem formatI_fields {w : BusWord} (hres : w.extractLsb' 16 4 = 0#4) :
    formatI (opField w) (rdField w) (imm16Field w) = w := by
  have hmid := extract_toNat w 16 4
  rw [hres, BitVec.toNat_ofNat] at hmid
  apply BitVec.eq_of_toNat_eq
  rw [formatI_toNat, opField_toNat, rdField_val, imm16Field_toNat]
  omega

/-! ### The words that decode -/

/-- The legal words of R86 and the command of each: LDI, LDC with an index of the ROM, and the format R rows with fields
that they allow. -/
inductive Decodes : BusWord → Instr → Prop where
  | ldi (rd : Reg) (imm16 : BitVec 16) : Decodes (formatI 0x02#8 rd imm16) (.ldi rd imm16)
  | ldc (rd : Reg) (imm16 : BitVec 16) (h : imm16.toNat ≤ 6) : Decodes (formatI 0x03#8 rd imm16) (.ldc rd imm16)
  | row (row : RowR) (h : row ∈ opcodeMap) (rd ra rb : Reg) (ha : row.Allows rd ra rb) :
      Decodes (formatR row.opcode rd ra rb) (row.make rd ra rb)

theorem decode_formatI_ldi (rd : Reg) (imm16 : BitVec 16) : decode (formatI 0x02#8 rd imm16) = .ok (.ldi rd imm16) := by
  simp [decode, decodeI]

theorem decode_formatI_ldc (rd : Reg) {imm16 : BitVec 16} (h : imm16.toNat ≤ 6) :
    decode (formatI 0x03#8 rd imm16) = .ok (.ldc rd imm16) := by
  simp [decode, decodeI, h]

theorem decode_formatR {row : RowR} (h : row ∈ opcodeMap) {rd ra rb : Reg} (ha : row.Allows rd ra rb) :
    decode (formatR row.opcode rd ra rb) = .ok (row.make rd ra rb) := by
  obtain ⟨hd, haa, hb⟩ := ha
  have hfind := rowOf_opcode h
  rw [rowOf] at hfind
  simp [decode, decodeR, rowR_opcode_ne h, hfind, hd, haa, hb]

theorem decodes_of_decodeI {w : BusWord} {i : Instr} (hop : opField w = 0x02#8 ∨ opField w = 0x03#8)
    (h : decodeI w = .ok i) : Decodes w i := by
  simp only [decodeI] at h
  split_ifs at h with hres hldi himm
  · cases h
    rw [← formatI_fields (not_not.1 hres), hldi, rdField_formatI, imm16Field_formatI]
    exact .ldi _ _
  · cases h
    rw [← formatI_fields (not_not.1 hres), hop.resolve_left hldi, rdField_formatI, imm16Field_formatI]
    exact .ldc _ _ (Nat.not_lt.1 himm)

theorem decodes_of_decodeR {w : BusWord} {i : Instr} (h : decodeR w = .ok i) : Decodes w i := by
  unfold decodeR at h
  split at h
  · cases h
  next row hrow =>
    obtain ⟨hmem, hop⟩ := mem_of_rowOf hrow
    split_ifs at h with hz
    split at h
    · cases h
    next hd =>
      split at h
      · cases h
      next ha =>
        split at h
        · cases h
        next hb =>
          cases h
          have hdec := Decodes.row row hmem _ _ _ ⟨hd, ha, hb⟩
          rwa [hop, formatR_fields (not_not.1 hz)] at hdec

theorem decode_eq_ok_iff (w : BusWord) (i : Instr) : decode w = .ok i ↔ Decodes w i := by
  constructor
  · intro h
    unfold decode at h
    split at h
    next hop => exact decodes_of_decodeI hop h
    next => exact decodes_of_decodeR h
  · intro h
    cases h with
    | ldi rd imm16 => exact decode_formatI_ldi rd imm16
    | ldc rd imm16 h => exact decode_formatI_ldc rd h
    | row row h rd ra rb ha => exact decode_formatR h ha

/-! ### The round trips -/

/-- The row of a command's opcode gives the command back from fields that it allows. -/
theorem decodes_of_rowOf {op : BitVec 8} {rd ra rb : Reg} {w : BusWord} {i : Instr} (row : RowR)
    (hrow : rowOf op = some row) (hw : formatR op rd ra rb = w) (hi : row.make rd ra rb = i)
    (ha : row.Allows rd ra rb) : Decodes w i := by
  obtain ⟨hmem, rfl⟩ := mem_of_rowOf hrow
  subst hw hi
  exact .row row hmem rd ra rb ha

theorem decodes_encode {i : Instr} (h : i.wellFormed = true) : Decodes (encode i) i := by
  cases i with
  | ldi rd imm16 => exact .ldi rd imm16
  | ldc rd imm16 => exact .ldc rd imm16 (of_decide_eq_true h)
  | nop | mov | fred | fchk | fadd | fsub | fneg | fmul | fmuls | finv | fdiv | fisz | fcmp | sinv =>
    exact decodes_of_rowOf _ rfl rfl rfl ⟨rfl, rfl, rfl⟩
  | pchk | padd | pdbl | pneg | pmul | pisinf | pcmp =>
    refine decodes_of_rowOf _ rfl rfl rfl ?_
    simpa [RowR.Allows, Instr.wellFormed, and_assoc] using h

/-- Settles O1: the word of a well-formed command is a legal word. -/
theorem decodeOfEncodeIsTheCommand : Obligations.DecodeOfEncodeIsTheCommand :=
  fun i h => (decode_eq_ok_iff (encode i) i).2 (decodes_encode h)

/-- Settles O2, by the kinds of legal words. -/
theorem legalWordIsTheEncodingOfItsCommand : Obligations.LegalWordIsTheEncodingOfItsCommand := by
  intro w i h
  cases (decode_eq_ok_iff w i).1 h with
  | ldi rd imm16 => exact ⟨rfl, rfl⟩
  | ldc rd imm16 himm => exact ⟨decide_eq_true himm, rfl⟩
  | row row hrow rd ra rb ha => exact encode_make hrow ha

/-! ### Match and mask -/

theorem append_eq_append_iff {a b : Nat} (x p : BitVec a) (y q : BitVec b) : x ++ y = p ++ q ↔ x = p ∧ y = q := by
  constructor
  · intro h
    have hhi := congrArg (BitVec.extractLsb' b a) h
    have hlo := congrArg (BitVec.extractLsb' 0 b) h
    rw [BitVec.extractLsb'_append_eq_left, BitVec.extractLsb'_append_eq_left] at hhi
    rw [BitVec.extractLsb'_append_eq_right, BitVec.extractLsb'_append_eq_right] at hlo
    exact ⟨hhi, hlo⟩
  · rintro ⟨rfl, rfl⟩
    rfl

/-- A match of five fields under their masks is a match of each. -/
theorem append_and_eq_iff {a b c d e : Nat} (x₁ m₁ p₁ : BitVec a) (x₂ m₂ p₂ : BitVec b) (x₃ m₃ p₃ : BitVec c)
    (x₄ m₄ p₄ : BitVec d) (x₅ m₅ p₅ : BitVec e) :
    (x₁ ++ x₂ ++ x₃ ++ x₄ ++ x₅) &&& (m₁ ++ m₂ ++ m₃ ++ m₄ ++ m₅) = p₁ ++ p₂ ++ p₃ ++ p₄ ++ p₅ ↔
      x₁ &&& m₁ = p₁ ∧ x₂ &&& m₂ = p₂ ∧ x₃ &&& m₃ = p₃ ∧ x₄ &&& m₄ = p₄ ∧ x₅ &&& m₅ = p₅ := by
  simp only [BitVec.and_append, append_eq_append_iff, and_assoc]

/-- A word as the fields of format R (R81). -/
theorem append_fieldsR (w : BusWord) : opField w ++ (BitVec.ofFin (rdField w) : BitVec 4) ++
    (BitVec.ofFin (raField w) : BitVec 4) ++ (BitVec.ofFin (rbField w) : BitVec 4) ++ zeroField w = w := by
  apply BitVec.eq_of_toNat_eq
  simp only [toNat_append_eq, BitVec.toNat_ofFin, opField_toNat, rdField_val, raField_val, rbField_val, zeroField_toNat]
  omega

/-- A word as the fields of format I (R83), the immediate cut above its three low bits. -/
theorem append_fieldsI (w : BusWord) : opField w ++ (BitVec.ofFin (rdField w) : BitVec 4) ++
    w.extractLsb' 16 4 ++ w.extractLsb' 3 13 ++ w.extractLsb' 0 3 = w := by
  apply BitVec.eq_of_toNat_eq
  simp only [toNat_append_eq, BitVec.toNat_ofFin, opField_toNat, rdField_val, extract_toNat]
  omega

/-- The bits of a format R field that its use fixes at 0 (R86). -/
def FieldUse.mask : FieldUse → BitVec 4
  | .zero => 0xF#4
  | .reg => 0x0#4
  | .pair => 0x1#4

theorem and_mask_eq_zero_iff (u : FieldUse) (r : Reg) :
    (BitVec.ofFin r : BitVec 4) &&& u.mask = 0#4 ↔ u.check r = none := by
  cases u <;> revert r <;> decide

/-- The match and mask of a format R row (R86). -/
def RowR.tableRow (row : RowR) : TableRow where
  pattern := row.opcode ++ 0#4 ++ 0#4 ++ 0#4 ++ 0#12
  mask := BitVec.allOnes 8 ++ row.rd.mask ++ row.ra.mask ++ row.rb.mask ++ BitVec.allOnes 12

/-- The match and mask of LDI. -/
def ldiRow : TableRow := ⟨0x02000000#32, 0xFF0F0000#32⟩

/-- The match and mask of LDC. -/
def ldcRow : TableRow := ⟨0x03000000#32, 0xFF0FFFF8#32⟩

/-- The opcode table has a row for LDI, one for LDC, and one for each format R row of R85. -/
theorem mem_tableRows_iff (t : TableRow) :
    t ∈ tableRows ↔ t = ldiRow ∨ t = ldcRow ∨ ∃ row ∈ opcodeMap, t = row.tableRow := by
  have hperm : tableRows.Perm (ldiRow :: ldcRow :: opcodeMap.map RowR.tableRow) := by decide
  simp [hperm.mem_iff, eq_comm]

theorem selects_iff (t : TableRow) (w : BusWord) :
    t.selects w = true ↔ w &&& t.mask = t.pattern ∧ constraint w = true := by
  simp [TableRow.selects]

/-- Only LDC has a constraint (R86). -/
theorem constraint_of_ne {w : BusWord} (h : opField w ≠ 0x03#8) : constraint w = true := by
  simp [constraint, h]

/-- The match of a format R row, field by field. -/
theorem and_mask_tableRow_iff (row : RowR) (w : BusWord) : w &&& row.tableRow.mask = row.tableRow.pattern ↔
    opField w = row.opcode ∧ row.Allows (rdField w) (raField w) (rbField w) ∧ zeroField w = 0#12 := by
  have h := append_and_eq_iff (opField w) (BitVec.allOnes 8) row.opcode (.ofFin (rdField w)) row.rd.mask 0#4
    (.ofFin (raField w)) row.ra.mask 0#4 (.ofFin (rbField w)) row.rb.mask 0#4 (zeroField w) (BitVec.allOnes 12) 0#12
  rw [append_fieldsR] at h
  simp only [BitVec.and_allOnes, and_mask_eq_zero_iff] at h
  simp only [RowR.Allows, and_assoc]
  exact h

/-- A format R row of the table selects the words of its command. -/
theorem selects_tableRow_iff {row : RowR} (hrow : row ∈ opcodeMap) (w : BusWord) :
    row.tableRow.selects w = true ↔ ∃ rd ra rb, row.Allows rd ra rb ∧ formatR row.opcode rd ra rb = w := by
  rw [selects_iff, and_mask_tableRow_iff]
  constructor
  · rintro ⟨⟨hop, ha, hz⟩, -⟩
    exact ⟨_, _, _, ha, hop ▸ formatR_fields hz⟩
  · rintro ⟨rd, ra, rb, ha, rfl⟩
    refine ⟨⟨?_, ?_, ?_⟩, constraint_of_ne ?_⟩
    · exact opField_formatR _ _ _ _
    · simpa using ha
    · exact zeroField_formatR _ _ _ _
    · rw [opField_formatR]
      exact (rowR_opcode_ne hrow).2

/-- The match of LDI, field by field. -/
theorem and_mask_ldiRow_iff (w : BusWord) :
    w &&& ldiRow.mask = ldiRow.pattern ↔ opField w = 0x02#8 ∧ w.extractLsb' 16 4 = 0#4 := by
  have h := append_and_eq_iff (opField w) (BitVec.allOnes 8) 0x02#8 (.ofFin (rdField w)) 0#4 0#4
    (w.extractLsb' 16 4) (BitVec.allOnes 4) 0#4 (w.extractLsb' 3 13) 0#13 0#13 (w.extractLsb' 0 3) 0#3 0#3
  rw [append_fieldsI] at h
  simp only [BitVec.and_allOnes, BitVec.and_zero, true_and, and_true] at h
  exact h

/-- The match of LDC, field by field: its index is below 8. -/
theorem and_mask_ldcRow_iff (w : BusWord) : w &&& ldcRow.mask = ldcRow.pattern ↔
    opField w = 0x03#8 ∧ w.extractLsb' 16 4 = 0#4 ∧ w.extractLsb' 3 13 = 0#13 := by
  have h := append_and_eq_iff (opField w) (BitVec.allOnes 8) 0x03#8 (.ofFin (rdField w)) 0#4 0#4
    (w.extractLsb' 16 4) (BitVec.allOnes 4) 0#4 (w.extractLsb' 3 13) (BitVec.allOnes 13) 0#13
    (w.extractLsb' 0 3) 0#3 0#3
  rw [append_fieldsI] at h
  simp only [BitVec.and_allOnes, BitVec.and_zero, true_and, and_true] at h
  exact h

theorem selects_ldiRow_iff (w : BusWord) : ldiRow.selects w = true ↔ ∃ rd imm16, formatI 0x02#8 rd imm16 = w := by
  rw [selects_iff, and_mask_ldiRow_iff]
  constructor
  · rintro ⟨⟨hop, hres⟩, -⟩
    exact ⟨_, _, hop ▸ formatI_fields hres⟩
  · rintro ⟨rd, imm16, rfl⟩
    exact ⟨⟨opField_formatI _ _ _, reserved_formatI _ _ _⟩, constraint_of_ne (by simp)⟩

/-- An LDC index is at most 6 when its upper bits are 0 and the constraint of R86 holds. -/
theorem ldc_index_iff {w : BusWord} (hop : opField w = 0x03#8) :
    w.extractLsb' 3 13 = 0#13 ∧ constraint w = true ↔ (imm16Field w).toNat ≤ 6 := by
  have hupper := extract_toNat w 3 13
  have hlow := extract_toNat w 0 3
  have himm := imm16Field_toNat w
  simp only [constraint, hop, ← BitVec.toNat_inj, BitVec.toNat_ofNat, bne_self_eq_false, Bool.false_or,
    decide_eq_true_eq]
  omega

theorem selects_ldcRow_iff (w : BusWord) :
    ldcRow.selects w = true ↔ ∃ rd imm16, imm16.toNat ≤ 6 ∧ formatI 0x03#8 rd imm16 = w := by
  rw [selects_iff, and_mask_ldcRow_iff]
  constructor
  · rintro ⟨⟨hop, hres, hupper⟩, hc⟩
    exact ⟨_, _, (ldc_index_iff hop).1 ⟨hupper, hc⟩, hop ▸ formatI_fields hres⟩
  · rintro ⟨rd, imm16, himm, rfl⟩
    have hop := opField_formatI 0x03#8 rd imm16
    obtain ⟨hupper, hc⟩ := (ldc_index_iff hop).2 (by rwa [imm16Field_formatI])
    exact ⟨⟨hop, reserved_formatI _ _ _, hupper⟩, hc⟩

/-- The legal words are those that select a row of the opcode table (R86). -/
theorem exists_decodes_iff (w : BusWord) : (∃ i, Decodes w i) ↔ ∃ t ∈ tableRows, t.selects w = true := by
  simp only [mem_tableRows_iff]
  constructor
  · rintro ⟨i, h⟩
    cases h with
    | ldi rd imm16 => exact ⟨ldiRow, .inl rfl, (selects_ldiRow_iff _).2 ⟨rd, imm16, rfl⟩⟩
    | ldc rd imm16 himm => exact ⟨ldcRow, .inr (.inl rfl), (selects_ldcRow_iff _).2 ⟨rd, imm16, himm, rfl⟩⟩
    | row row hrow rd ra rb ha =>
      exact ⟨row.tableRow, .inr (.inr ⟨row, hrow, rfl⟩), (selects_tableRow_iff hrow _).2 ⟨rd, ra, rb, ha, rfl⟩⟩
  · rintro ⟨t, rfl | rfl | ⟨row, hrow, rfl⟩, hsel⟩
    · obtain ⟨rd, imm16, rfl⟩ := (selects_ldiRow_iff w).1 hsel
      exact ⟨_, .ldi rd imm16⟩
    · obtain ⟨rd, imm16, himm, rfl⟩ := (selects_ldcRow_iff w).1 hsel
      exact ⟨_, .ldc rd imm16 himm⟩
    · obtain ⟨rd, ra, rb, ha, rfl⟩ := (selects_tableRow_iff hrow w).1 hsel
      exact ⟨_, .row row hrow rd ra rb ha⟩

theorem exists_decode_iff (w : BusWord) : (∃ i, decode w = .ok i) ↔ ∃ t ∈ tableRows, t.selects w = true := by
  simp only [decode_eq_ok_iff, exists_decodes_iff]

/-- A row's mask covers the opcode, so the row has the opcode of every word that selects it. -/
theorem opField_of_selects {t : TableRow} (ht : t ∈ tableRows) {w : BusWord} (h : t.selects w = true) :
    t.pattern.extractLsb' 24 8 = opField w := by
  have hmask : ∀ t ∈ tableRows, t.mask.extractLsb' 24 8 = BitVec.allOnes 8 := by decide
  rw [← ((selects_iff t w).1 h).1, BitVec.extractLsb'_and, hmask t ht, BitVec.and_allOnes, opField]

theorem opField_encode (i : Instr) : opField (encode i) = i.opcode := by
  cases i <;> simp only [encode, opField_formatR, opField_formatI]

/-- No two rows of the table have the same opcode (R85). -/
theorem tableRow_eq_of_opcode {t t' : TableRow} (ht : t ∈ tableRows) (ht' : t' ∈ tableRows)
    (h : t.pattern.extractLsb' 24 8 = t'.pattern.extractLsb' 24 8) : t = t' := by
  have hall : ∀ t ∈ tableRows, ∀ t' ∈ tableRows,
      t.pattern.extractLsb' 24 8 = t'.pattern.extractLsb' 24 8 → t = t' := by decide
  exact hall t ht t' ht' h

/-- Settles O3: a word selects a row exactly if it is legal, and the row's opcode is the word's. -/
theorem legalWordsAreTheOpcodeTableRows : Obligations.LegalWordsAreTheOpcodeTableRows := by
  refine ⟨exists_decode_iff, fun w i h => ?_, fun w t t' ht ht' hsel hsel' => ?_⟩
  · obtain ⟨t, ht, hsel⟩ := (exists_decode_iff w).1 ⟨i, h⟩
    obtain ⟨-, rfl⟩ := legalWordIsTheEncodingOfItsCommand w i h
    exact ⟨t, ht, hsel, (opField_of_selects ht hsel).trans (opField_encode i)⟩
  · exact tableRow_eq_of_opcode ht ht' ((opField_of_selects ht hsel).trans (opField_of_selects ht' hsel').symm)

/-- Settles O4, by evaluating the decoder on each word. -/
theorem workedWordsDecode : Obligations.WorkedWordsDecode := by
  unfold Obligations.WorkedWordsDecode
  decide

end Sys2Proof
end

section
/-! SUPPORT. The completion of a command (30_encoding.md R90 to R94): what the engine runs, what a command's result
depends on, and the registers that it leaves alone. -/

namespace Sys2Proof.Machine

open Sys2Proof.Stated

/-! ### The engine's step -/

theorem engineStep_of_decode_ok {s : State} {f : InFlight} {i : Instr} (hp : s.pending = some f)
    (hd : decode f.word = .ok i) : engineStep s = exec i s := by
  simp only [engineStep, hp, hd]

theorem raise_eq_errState (s : State) {o : OutcomeCode} (h : o ≠ .ok) : raise o s = .next (errState s o.code) := by
  simp [raise, State.fail, State.retire, errState, h]

/-- A word that selects no row of the opcode table completes with ILLEGAL (R87). -/
theorem engineStep_of_no_row {s : State} {f : InFlight} (hp : s.pending = some f)
    (hrow : ∀ row ∈ tableRows, row.selects f.word = false) : engineStep s = .next (errState s 0x01#8) := by
  cases hd : decode f.word with
  | ok i =>
    obtain ⟨row, hmem, hsel⟩ := (exists_decode_iff f.word).1 ⟨i, hd⟩
    simp [hrow row hmem] at hsel
  | error e =>
    simp only [engineStep, hp, hd]
    exact raise_eq_errState s (by decide)

/-- At a completion event, and when no event is left, the step is the engine's. -/
theorem step_of_complete {s : State} {rest : List Event} (h : s.events = .complete :: rest) :
    step s = engineStep { s with events := rest } :=
  step_of_event s _ rest h

/-- Settles O5: the engine's step is the command's meaning. -/
theorem stepRunsTheDecodedCommand : Obligations.StepRunsTheDecodedCommand := by
  intro s f i hp hd
  constructor
  · intro rest hev
    rw [step_of_complete hev]
    exact engineStep_of_decode_ok hp hd
  · intro hev
    rw [step_of_no_event s hev]
    exact engineStep_of_decode_ok hp hd

/-- Settles O6: the engine's step raises ILLEGAL, since no row means no command. -/
theorem wordOfNoRowCompletesIllegal : Obligations.WordOfNoRowCompletesIllegal := by
  intro s f hp hrow
  constructor
  · intro rest hev
    rw [step_of_complete hev]
    exact engineStep_of_no_row hp hrow
  · intro hev
    rw [step_of_no_event s hev]
    exact engineStep_of_no_row hp hrow

/-! ### Acceptance and operands -/

theorem writeTarget_cmd_idle {s : State} (w : BusWord) (hb : s.status.busy = false) :
    s.writeTarget w .cmd = s.accept w :=
  if_neg (ne_true_of_eq_false hb)

/-- Settles O7: the write's target is CMD, which accepts the word while idle and drops it while BUSY. -/
theorem idleCmdWriteIsAccepted : Obligations.IdleCmdWriteIsAccepted := by
  intro s w rest hev
  have hstep := step_of_write hev rfl (d := .cmd) rfl
  constructor
  · intro hb
    rw [writeTarget_cmd_idle (s := { s with events := rest }) w hb] at hstep
    exact ⟨_, hstep, rfl, Bool.and_false _⟩
  · intro hb
    rw [writeTarget_busy (s := { s with events := rest }) w hb (.inl rfl)] at hstep
    exact hstep

/-- Settles O13: by the invariant the snapshot of a command in flight is the registers. -/
theorem operandsAreTheSnapshot : Obligations.OperandsAreTheSnapshot := by
  refine ⟨snapshot_of_pending, fun s hi => ?_⟩
  obtain ⟨-, hnone | ⟨hsome, -⟩, -⟩ := hi
  · exact snapshot_of_idle s hnone
  · exact snapshot_of_pending s _ hsome

/-! ### The registers that a command leaves alone -/

/-- A command's result keeps every register outside a list (R94). -/
def KeepsRegsExcept (dest : List Reg) (s : State) (r : Result) : Prop :=
  ∀ t, r = .next t → ∀ q ∉ dest, getReg t.regs q = getReg s.regs q

theorem KeepsRegsExcept.of_regs_eq (dest : List Reg) {s t : State} (h : t.regs = s.regs) :
    KeepsRegsExcept dest s (.next t) := by
  intro t' ht q _
  cases ht
  rw [h]

theorem KeepsRegsExcept.raise (dest : List Reg) (o : OutcomeCode) (s : State) :
    KeepsRegsExcept dest s (raise o s) :=
  .of_regs_eq dest (s.fail_regs o)

theorem KeepsRegsExcept.flags (dest : List Reg) (f : Flags) (s : State) : KeepsRegsExcept dest s (writeFlags f s) :=
  .of_regs_eq dest (s.completeOk_regs s.regs f)

/-- A completion that writes `R[rd]`, whatever flags it writes. -/
theorem KeepsRegsExcept.reg (rd : Reg) (v : Word) (f : Flags) (s : State) :
    KeepsRegsExcept [rd] s (.next (s.completeOk (setReg s.regs rd v) f)) := by
  intro t ht q hq
  cases ht
  exact getReg_setReg_of_ne _ _ _ _ (by simpa using hq)

/-- A completion that writes the pair of rd, whatever flags it writes. -/
theorem KeepsRegsExcept.pair (rd : Reg) (p : Point) (f : Flags) (s : State) :
    KeepsRegsExcept [rd, rd + 1] s (.next (s.completeOk (setPair s.regs rd p) f)) := by
  intro t ht q hq
  cases ht
  simp only [List.mem_cons, List.not_mem_nil, or_false, not_or] at hq
  exact getReg_setPair_of_ne _ _ _ _ hq.1 hq.2

theorem KeepsRegsExcept.ite {dest : List Reg} {s : State} {c : Prop} [Decidable c] {r r' : Result}
    (h : KeepsRegsExcept dest s r) (h' : KeepsRegsExcept dest s r') : KeepsRegsExcept dest s (if c then r else r') := by
  split <;> assumption

theorem KeepsRegsExcept.withPairs {dest : List Reg} {s : State} {body : State → Result} (pairs : List Reg)
    (h : KeepsRegsExcept dest s (body s)) : KeepsRegsExcept dest s (withPairs pairs s body) :=
  h.ite (.raise dest .illegal s)

theorem exec_keepsRegsExcept (i : Instr) (s : State) : KeepsRegsExcept (destinations i) s (exec i s) := by
  cases i with
  | nop => exact .of_regs_eq _ rfl
  | mov | ldi | fred => exact .reg _ _ _ s
  | ldc rd imm16 =>
    simp only [exec, execLdc]
    cases rom imm16 with
    | some v => exact .reg rd v _ s
    | none => exact .raise _ _ s
  | sinv rd ra =>
    simp only [exec, execSinv]
    cases sinv (s.opReg ra) with
    | some v => exact .reg rd v _ s
    | none => exact .raise _ _ s
  | fadd | fsub | fneg | fmul | fmuls => exact .ite (.reg _ _ _ s) (.raise _ _ s)
  | finv | fdiv => exact .ite (.ite (.raise _ _ s) (.reg _ _ _ s)) (.raise _ _ s)
  | fisz | fcmp => exact .flags _ _ s
  | fchk => exact .ite (.reg _ _ _ s) (.flags _ _ s)
  | pchk =>
    simp only [exec]
    refine .withPairs _ ?_
    exact .ite (.pair _ _ _ s) (.flags _ _ s)
  | padd | pdbl | pneg | pmul =>
    simp only [exec]
    refine .withPairs _ ?_
    exact .ite (.pair _ _ _ s) (.raise _ _ s)
  | pisinf | pcmp => exact .withPairs _ (.flags _ _ s)

/-- Settles O10, by what each command's result keeps. -/
theorem onlyDestinationRegistersChange : Obligations.OnlyDestinationRegistersChange :=
  fun i s t r h hr => exec_keepsRegsExcept i s t h r hr

/-! ### Results follow from the snapshot -/

/-- From `a` and `a'` before to `b` and `b'` after: the same value written, or both left as they were. -/
def SameOrKept {α : Type} (a a' b b' : α) : Prop := b = b' ∨ b = a ∧ b' = a'

theorem SameOrKept.kept {α : Type} (a a' : α) : SameOrKept a a' a a' := .inr ⟨rfl, rfl⟩

/-- The same write to `R[rd]` in two register files leaves each register the same in both, or as it was. -/
theorem SameOrKept.setReg {v v' u u' : Regs} (rd : Reg) (x : Word) {r : Reg}
    (h : SameOrKept (getReg v r) (getReg v' r) (getReg u r) (getReg u' r)) :
    SameOrKept (getReg v r) (getReg v' r) (getReg (setReg u rd x) r) (getReg (setReg u' rd x) r) := by
  by_cases hr : r = rd
  · subst hr
    exact .inl (by rw [getReg_setReg_self, getReg_setReg_self])
  · rwa [getReg_setReg_of_ne _ _ _ _ hr, getReg_setReg_of_ne _ _ _ _ hr]

theorem SameOrKept.setPair (v v' : Regs) (rd : Reg) (p : Point) (r : Reg) :
    SameOrKept (getReg v r) (getReg v' r) (getReg (setPair v rd p) r) (getReg (setPair v' rd p) r) :=
  .setReg (rd + 1) p.y (.setReg rd p.x (.kept _ _))

/-- Each flag of two FLAGS, from before to after: the same value written, or left as it was by both. -/
def SameOrKeptFlags (f f' g g' : Flags) : Prop :=
  SameOrKept f.z f'.z g.z g'.z ∧ SameOrKept f.eq f'.eq g.eq g'.eq ∧ SameOrKept f.lt f'.lt g.lt g'.lt ∧
    SameOrKept f.none f'.none g.none g'.none

theorem SameOrKeptFlags.kept (f f' : Flags) : SameOrKeptFlags f f' f f' :=
  ⟨.kept _ _, .kept _ _, .kept _ _, .kept _ _⟩

theorem SameOrKeptFlags.setZ (f f' : Flags) (b : Bool) : SameOrKeptFlags f f' (f.setZ b) (f'.setZ b) :=
  ⟨.inl rfl, .kept _ _, .kept _ _, .kept _ _⟩

theorem SameOrKeptFlags.setCmp (f f' : Flags) (e l : Bool) :
    SameOrKeptFlags f f' (f.setCmp e l) (f'.setCmp e l) :=
  ⟨.kept _ _, .inl rfl, .inl rfl, .kept _ _⟩

theorem SameOrKeptFlags.setNone (f f' : Flags) (b : Bool) : SameOrKeptFlags f f' (f.setNone b) (f'.setNone b) :=
  ⟨.kept _ _, .kept _ _, .kept _ _, .inl rfl⟩

/-- The same completion gives the same code, and writes or keeps the same registers and flags. -/
theorem SameCompletion.same_or_kept {s s' t t' : State} (h : SameCompletion s s' (.next t) (.next t')) :
    t.errcode = t'.errcode ∧
    (∀ r, SameOrKept (getReg s.regs r) (getReg s'.regs r) (getReg t.regs r) (getReg t'.regs r)) ∧
    SameOrKeptFlags s.flags s'.flags t.flags t'.flags := by
  cases h with
  | error | nothing => exact ⟨rfl, fun r => .kept _ _, .kept _ _⟩
  | reg rd v => exact ⟨rfl, fun r => .setReg rd v (.kept _ _), .kept _ _⟩
  | pair rd q => exact ⟨rfl, .setPair _ _ rd q, .kept _ _⟩
  | setZ b => exact ⟨rfl, fun r => .kept _ _, .setZ _ _ b⟩
  | setCmp e l => exact ⟨rfl, fun r => .kept _ _, .setCmp _ _ e l⟩
  | setNone b => exact ⟨rfl, fun r => .kept _ _, .setNone _ _ b⟩
  | regPassed rd v => exact ⟨rfl, fun r => .setReg rd v (.kept _ _), .setNone _ _ false⟩
  | pairPassed rd q => exact ⟨rfl, .setPair _ _ rd q, .setNone _ _ false⟩

/-- Settles O12: equal snapshots give the same completion. -/
theorem resultsDependOnSnapshotOnly : Obligations.ResultsDependOnSnapshotOnly := by
  intro i s s' t t' hsnap ht ht'
  have hsame := exec_sameCompletion i hsnap.symm
  rw [ht, ht'] at hsame
  exact hsame.same_or_kept

end Sys2Proof.Machine
end

section
/-! SUPPORT. The field commands (40_field.md R100 to R120): the multiplier and the inverter as arithmetic modulo p, and
each command's completion from its operand values. -/

namespace Sys2Proof.Machine

open Sys2Proof.Stated

/-! ### Command words and p, as the statements write them -/

theorem wordR_eq_formatR (op : BitVec 8) (rd ra rb : Reg) : wordR op rd ra rb = formatR op rd ra rb := by
  apply BitVec.eq_of_toNat_eq
  rw [formatR_toNat, wordR, BitVec.toNat_ofNat]
  omega

theorem decode_wordR {op : BitVec 8} {rd ra rb : Reg} {i : Instr} (row : RowR) (hrow : rowOf op = some row)
    (hi : row.make rd ra rb = i) (ha : row.Allows rd ra rb) : decode (wordR op rd ra rb) = .ok i :=
  (decode_eq_ok_iff _ i).2 (decodes_of_rowOf row hrow (wordR_eq_formatR op rd ra rb).symm hi ha)

/-- The prime of the statements is the model's ROM constant (R27). -/
theorem p_eq_P_toNat : p = P.toNat := by rw [P_toNat]; rfl

theorem P_toNat_pos : 0 < P.toNat := prime_P.pos

theorem mod_P_lt (k : Nat) : k % P.toNat < P.toNat := Nat.mod_lt k P_toNat_pos

@[simp] theorem w256_toNat (v : Word) : w256 v.toNat = v := by rw [w256, BitVec.ofNat_toNat, BitVec.setWidth_eq]

theorem toNat_w256_of_lt {k : Nat} (h : k < P.toNat) : (w256 k).toNat = k := by
  rw [w256, BitVec.toNat_ofNat, Nat.mod_eq_of_lt (lt_trans h P.isLt)]

/-! ### The multiplier (R104, R105) -/

/-- The accumulator of R104's loop after the multiplier's leading bits, read as `k`: `k * a` modulo p. -/
def IsMultiple (a : Word) (k : Nat) (acc : Word) : Prop := acc.toNat = k * a.toNat % P.toNat

theorem IsMultiple.canonical {a acc : Word} {k : Nat} (h : IsMultiple a k acc) : acc.toNat < P.toNat :=
  h ▸ mod_P_lt _

theorem IsMultiple.double {a acc : Word} {k : Nat} (h : IsMultiple a k acc) : IsMultiple a (2 * k) (fadd acc acc) := by
  rw [IsMultiple, fadd_toNat _ _ h.canonical h.canonical, h, ← Nat.add_mod]
  congr 1
  ring

theorem IsMultiple.add {a acc : Word} {k : Nat} (ha : a.toNat < P.toNat) (h : IsMultiple a k acc) :
    IsMultiple a (k + 1) (fadd acc a) := by
  rw [IsMultiple, fadd_toNat _ _ h.canonical ha, h, Nat.mod_add_mod, Nat.add_one_mul]

/-- R105. -/
theorem fmul_toNat (a m : Word) (ha : a.toNat < P.toNat) : (fmul a m).toNat = a.toNat * m.toNat % P.toNat := by
  have hstart : IsMultiple a 0 0#256 := by simp [IsMultiple]
  have hend : IsMultiple a (0 * 2 ^ 256 + m.toNat % 2 ^ 256) (fmul a m) :=
    ladder_inv _ _ m (IsMultiple a) (fun _ _ => .double) (fun _ _ => .add ha) 256 0 0#256 hstart
  rw [Nat.zero_mul, Nat.zero_add, Nat.mod_eq_of_lt m.isLt] at hend
  rw [hend, Nat.mul_comm]

/-- Settles O20: after all 256 bits the loop holds the multiplier's multiple of a, and a product modulo p depends on
the multiplier's residue alone. -/
theorem doubleAndAddLoopIsProductModP : Obligations.DoubleAndAddLoopIsProductModP := by
  intro a m ha
  rw [p_eq_P_toNat] at ha ⊢
  refine ⟨fmul_toNat a m ha, BitVec.eq_of_toNat_eq ?_⟩
  rw [fmul_toNat a m ha, fmul_toNat a _ ha, toNat_w256_of_lt (mod_P_lt _), Nat.mul_mod_mod]

/-! ### Inverse and quotient (R106, R118) -/

theorem coprime_P {b : Nat} (h0 : b ≠ 0) (hb : b < P.toNat) : Nat.gcd b P.toNat = 1 :=
  (Nat.coprime_of_lt_prime h0 hb prime_P).symm

/-- R106: the inverter's value for a canonical nonzero operand. -/
theorem finv_spec (a : Word) (h0 : a.toNat ≠ 0) (ha : a.toNat < P.toNat) :
    (finv a).toNat < P.toNat ∧ a.toNat * (finv a).toNat % P.toNat = 1 := by
  have hinv := modInv_spec a.toNat P.toNat ha P.isLt (coprime_P h0 ha) prime_P.one_lt
  have hne : a ≠ 0#256 := by
    rintro rfl
    exact h0 rfl
  have hval : (finv a).toNat = modInv a.toNat P.toNat := by
    rw [finv, if_neg hne]
    exact toNat_w256_of_lt hinv.1
  rwa [hval]

/-- A factor below p is determined by its product with a canonical nonzero value. -/
theorem eq_of_mul_mod_P_eq {b t u : Nat} (h0 : b ≠ 0) (hb : b < P.toNat) (ht : t < P.toNat) (hu : u < P.toNat)
    (h : u * b % P.toNat = t * b % P.toNat) : u = t :=
  Nat.ModEq.eq_of_lt_of_lt (Nat.ModEq.cancel_right_of_coprime ((Nat.gcd_comm _ _).trans (coprime_P h0 hb)) h) hu ht

/-- R118: `a` times the inverse of `b`, times `b`, is `a`. -/
theorem fmul_finv_mul_mod (a b : Word) (ha : a.toNat < P.toNat) (h0 : b.toNat ≠ 0) (hb : b.toNat < P.toNat) :
    (fmul a (finv b)).toNat * b.toNat % P.toNat = a.toNat := by
  obtain ⟨-, hinv⟩ := finv_spec b h0 hb
  calc (fmul a (finv b)).toNat * b.toNat % P.toNat
      = a.toNat * (b.toNat * (finv b).toNat % P.toNat) % P.toNat := by
        rw [fmul_toNat a _ ha, Nat.mod_mul_mod, Nat.mul_mod_mod, Nat.mul_assoc, Nat.mul_comm b.toNat]
    _ = a.toNat := by rw [hinv, Nat.mul_one, Nat.mod_eq_of_lt ha]

/-! ### The check of the operands (R92), from their values -/

section
variable {s : State} {ra rb : Reg}

theorem canonOp_of_lt (h : val s ra < P.toNat) : s.canonOp ra = true := (canon_iff _).2 h

theorem canonOp_of_le (h : P.toNat ≤ val s ra) : s.canonOp ra = false :=
  Bool.eq_false_iff.2 fun hc => Nat.not_lt.2 h ((canon_iff _).1 hc)

theorem canonOps_of_lt (h : val s ra < P.toNat ∧ val s rb < P.toNat) : (s.canonOp ra && s.canonOp rb) = true := by
  rw [canonOp_of_lt h.1, canonOp_of_lt h.2]; rfl

theorem canonOps_of_le (h : P.toNat ≤ val s ra ∨ P.toNat ≤ val s rb) : (s.canonOp ra && s.canonOp rb) = false := by
  obtain ha | hb := h
  · rw [canonOp_of_le ha, Bool.false_and]
  · rw [canonOp_of_le hb, Bool.and_false]

theorem opReg_eq_zero_iff : s.opReg ra = 0#256 ↔ val s ra = 0 := BitVec.toNat_inj.symm

end

/-! ### The state a command leaves (R93, R203) -/

theorem completeOk_eq_okState (s : State) (regs : Regs) (flags : Flags) :
    s.completeOk regs flags = okState s regs flags := by
  simp [State.completeOk, State.retire, okState, OutcomeCode.code]

/-- A write of `R[rd]`, by the number written. -/
theorem writeReg_eq {rd : Reg} {v : Word} {s : State} {k : Nat} (h : v.toNat = k) :
    writeReg rd v s = .next (okState s (setReg s.regs rd (w256 k)) s.flags) := by
  rw [writeReg, completeOk_eq_okState, ← h, w256_toNat]

theorem writeFlags_eq (f : Flags) (s : State) : writeFlags f s = .next (okState s s.regs f) :=
  congrArg Host.Outcome.next (completeOk_eq_okState s s.regs f)

/-- A command whose check failed: NONCANONICAL, whatever it would have done. -/
theorem noncanonical_of_check {s : State} {c : Bool} (r : Result) (h : c = false) :
    (if c then r else raise .noncanonical s) = .next (errState s 0x02#8) := by
  rw [h]
  exact raise_eq_errState s (by decide)

/-- The checks of a division in R92's order: past the first, a zero operand raises DIV_BY_ZERO. -/
theorem divByZero_of_checks {s : State} {c : Bool} {rb : Reg} (r : Result) (hc : c = true) (h0 : val s rb = 0) :
    (if c then if s.opReg rb = 0#256 then raise .divByZero s else r else raise .noncanonical s) =
      .next (errState s 0x04#8) := by
  rw [if_pos hc, if_pos (opReg_eq_zero_iff.2 h0)]
  exact raise_eq_errState s (by decide)

theorem result_of_checks {s : State} {c : Bool} {rb : Reg} (r : Result) (hc : c = true) (h0 : val s rb ≠ 0) :
    (if c then if s.opReg rb = 0#256 then raise .divByZero s else r else raise .noncanonical s) = r := by
  rw [if_pos hc, if_neg (mt opReg_eq_zero_iff.1 h0)]

/-! ### The field commands -/

/-- Settles O15, by R100's conditional subtraction as a residue. -/
theorem fredReducesModP : Obligations.FredReducesModP := by
  simp only [Obligations.FredReducesModP, p_eq_P_toNat]
  intro rd ra s
  exact ⟨decode_wordR _ rfl rfl ⟨rfl, rfl, rfl⟩, writeReg_eq (fred_toNat _)⟩

/-- Settles O16, by the two outcomes of the check. -/
theorem fchkValidatesWithoutReducing : Obligations.FchkValidatesWithoutReducing := by
  simp only [Obligations.FchkValidatesWithoutReducing, p_eq_P_toNat]
  intro rd ra s
  refine ⟨decode_wordR _ rfl rfl ⟨rfl, rfl, rfl⟩, fun h => ?_, fun h => ?_⟩
  · simp only [exec, execFchk, canonOp_of_lt h, if_true, writeRegPassed, completeOk_eq_okState]
    rw [val, w256_toNat]
    rfl
  · simp only [exec, execFchk, canonOp_of_le h]
    exact writeFlags_eq _ s

/-- Settles O17, by the adder's sum modulo p. -/
theorem faddAddsModP : Obligations.FaddAddsModP := by
  simp only [Obligations.FaddAddsModP, p_eq_P_toNat]
  intro rd ra rb s
  refine ⟨decode_wordR _ rfl rfl ⟨rfl, rfl, rfl⟩, fun h => ?_, fun h => noncanonical_of_check _ (canonOps_of_le h)⟩
  exact (if_pos (canonOps_of_lt h)).trans (writeReg_eq (fadd_toNat _ _ h.1 h.2))

/-- Settles O18, by the subtractor's difference modulo p. -/
theorem fsubSubtractsModP : Obligations.FsubSubtractsModP := by
  simp only [Obligations.FsubSubtractsModP, p_eq_P_toNat]
  intro rd ra rb s
  refine ⟨decode_wordR _ rfl rfl ⟨rfl, rfl, rfl⟩, fun h => ?_, fun h => noncanonical_of_check _ (canonOps_of_le h)⟩
  exact (if_pos (canonOps_of_lt h)).trans (writeReg_eq (fsub_toNat _ _ h.1 h.2))

/-- Settles O19, by the negation modulo p. -/
theorem fnegNegatesModP : Obligations.FnegNegatesModP := by
  simp only [Obligations.FnegNegatesModP, p_eq_P_toNat]
  intro rd ra s
  refine ⟨decode_wordR _ rfl rfl ⟨rfl, rfl, rfl⟩, fun h => ?_, fun h => noncanonical_of_check _ (canonOp_of_le h)⟩
  exact (if_pos (canonOp_of_lt h)).trans (writeReg_eq (fneg_toNat _ h))

/-- Settles O21: both run the multiplier, FMULS with one operand checked. -/
theorem fmulAndFmulsMultiplyModP : Obligations.FmulAndFmulsMultiplyModP := by
  simp only [Obligations.FmulAndFmulsMultiplyModP, p_eq_P_toNat]
  intro rd ra rb s
  refine ⟨decode_wordR _ rfl rfl ⟨rfl, rfl, rfl⟩, decode_wordR _ rfl rfl ⟨rfl, rfl, rfl⟩, fun h => ?_,
    fun h => noncanonical_of_check _ (canonOps_of_le h), fun h => ?_,
    fun h => noncanonical_of_check _ (canonOp_of_le h)⟩
  · exact (if_pos (canonOps_of_lt h)).trans (writeReg_eq (fmul_toNat _ _ h.1))
  · exact (if_pos (canonOp_of_lt h)).trans (writeReg_eq (fmul_toNat _ _ h))

/-- Settles O22: the inverter's value is an inverse, hence not 0, and a factor is determined by its product. -/
theorem finvWritesTheUniqueInverse : Obligations.FinvWritesTheUniqueInverse := by
  simp only [Obligations.FinvWritesTheUniqueInverse, p_eq_P_toNat]
  intro rd ra s
  refine ⟨decode_wordR _ rfl rfl ⟨rfl, rfl, rfl⟩, fun ⟨ha, h0⟩ => ?_, fun h0 => ?_,
    fun h => noncanonical_of_check _ (canonOp_of_le h)⟩
  · obtain ⟨hlt, hinv⟩ := finv_spec (s.opReg ra) h0 ha
    refine ⟨(finv (s.opReg ra)).toNat, ⟨Nat.one_le_iff_ne_zero.2 fun hz => ?_, hlt, hinv⟩, fun u _ hu hmul => ?_, ?_⟩
    · simp [hz] at hinv
    · refine eq_of_mul_mod_P_eq h0 ha hlt hu ?_
      rw [Nat.mul_comm u, Nat.mul_comm _ (val s ra), hmul]
      exact hinv.symm
    · exact (result_of_checks _ (canonOp_of_lt ha) h0).trans (writeReg_eq rfl)
  · exact divByZero_of_checks _ (canonOp_of_lt (h0 ▸ P_toNat_pos)) h0

/-- Settles O23: the product with the inverse is a quotient, and a factor is determined by its product. -/
theorem fdivWritesTheQuotient : Obligations.FdivWritesTheQuotient := by
  simp only [Obligations.FdivWritesTheQuotient, p_eq_P_toNat]
  intro rd ra rb s
  refine ⟨decode_wordR _ rfl rfl ⟨rfl, rfl, rfl⟩, fun ⟨ha, hb, h0⟩ => ?_, fun ⟨ha, h0⟩ => ?_,
    fun h => noncanonical_of_check _ (canonOps_of_le h)⟩
  · have hquot := fmul_finv_mul_mod (s.opReg ra) (s.opReg rb) ha h0 hb
    have hlt : (fmul (s.opReg ra) (finv (s.opReg rb))).toNat < P.toNat := fmul_toNat _ _ ha ▸ mod_P_lt _
    refine ⟨_, ⟨hlt, hquot⟩, fun u hu hmul => ?_, ?_⟩
    · exact eq_of_mul_mod_P_eq h0 hb hlt hu (hmul.trans hquot.symm)
    · exact (result_of_checks _ (canonOps_of_lt ⟨ha, hb⟩) h0).trans (writeReg_eq rfl)
  · exact divByZero_of_checks _ (canonOps_of_lt ⟨ha, h0 ▸ P_toNat_pos⟩) h0

/-! ### The tests (R119, R120) -/

theorem decide_eq_toNat_beq (v w : Word) : decide (v = w) = (v.toNat == w.toNat) := by
  rw [Bool.eq_iff_iff]
  simp [← BitVec.toNat_inj]

theorem isZero_eq (v : Word) : isZero v = (v.toNat == 0) := decide_eq_toNat_beq v 0#256

/-- Settles O24: the flags of a word comparison are those of the numbers. -/
theorem fieldTestsWriteTheirFlags : Obligations.FieldTestsWriteTheirFlags := by
  intro ra rb s
  refine ⟨decode_wordR _ rfl rfl ⟨rfl, rfl, rfl⟩, decode_wordR _ rfl rfl ⟨rfl, rfl, rfl⟩, ?_, ?_⟩
  · simp only [exec, execFisz, writeFlags_eq, isZero_eq]
    rfl
  · simp only [exec, execFcmp, writeFlags_eq, decide_eq_toNat_beq, BitVec.lt_def]
    rfl

end Sys2Proof.Machine
end

section
/-! SUPPORT. The field primitives (40_field.md R101 to R106) as the operations of Mathlib's field of integers modulo p. -/

namespace Sys2Proof.Machine

open Sys2Proof.Stated

/-- The integers modulo p (R27). -/
abbrev Fp := ZMod P.toNat

/-- The integers modulo p are a field. -/
theorem fact_prime_P : Fact P.toNat.Prime := ⟨prime_P⟩

/-- The word is the canonical form of the residue (R17). -/
structure IsResidue (v : Word) (x : Fp) : Prop where
  lt : v.toNat < P.toNat
  cast : (v.toNat : Fp) = x

theorem isResidue_cast {v : Word} (h : v.toNat < P.toNat) : IsResidue v (v.toNat : Fp) := ⟨h, rfl⟩

theorem isResidue_ofNat {k : Nat} (h : k < P.toNat) : IsResidue (BitVec.ofNat 256 k) (k : Fp) := by
  have hv : (BitVec.ofNat 256 k).toNat = k := toNat_w256_of_lt h
  exact ⟨hv.symm ▸ h, by rw [hv]⟩

/-- Residues of numbers, as the statements compare them. -/
theorem natCast_eq_iff (a b : Nat) : (a : Fp) = b ↔ a % P.toNat = b % P.toNat := ZMod.natCast_eq_natCast_iff' a b _

theorem natCast_ne_zero {k : Nat} (h0 : k ≠ 0) (hk : k < P.toNat) : (k : Fp) ≠ 0 := by
  rw [Ne, ZMod.natCast_eq_zero_iff]
  exact Nat.not_dvd_of_pos_of_lt (Nat.pos_of_ne_zero h0) hk

/-- A canonical form is the only one of its residue. -/
theorem IsResidue.eq_iff {v w : Word} {x y : Fp} (hv : IsResidue v x) (hw : IsResidue w y) : v = w ↔ x = y := by
  rw [← hv.cast, ← hw.cast, natCast_eq_iff, Nat.mod_eq_of_lt hv.lt, Nat.mod_eq_of_lt hw.lt, BitVec.toNat_inj]

theorem isResidue_zero : IsResidue 0#256 0 := by simpa using isResidue_ofNat P_toNat_pos

theorem isResidue_two : IsResidue 2#256 2 := isResidue_ofNat (k := 2) (by decide)

theorem isResidue_three : IsResidue 3#256 3 := isResidue_ofNat (k := 3) (by decide)

/-- A word whose number is `k` modulo p is the canonical form of `k`'s residue. -/
theorem isResidue_of_toNat_eq {v : Word} {k : Nat} (h : v.toNat = k % P.toNat) : IsResidue v (k : Fp) :=
  ⟨h ▸ mod_P_lt k, by rw [h, ZMod.natCast_mod]⟩

theorem cast_P_sub {v : Word} (h : v.toNat < P.toNat) : ((P.toNat - v.toNat : Nat) : Fp) = -(v.toNat : Fp) := by
  rw [Nat.cast_sub h.le, ZMod.natCast_self, zero_sub]

theorem IsResidue.fneg {v : Word} {x : Fp} (hv : IsResidue v x) : IsResidue (fneg v) (-x) := by
  rw [← hv.cast, ← cast_P_sub hv.lt]
  exact isResidue_of_toNat_eq (fneg_toNat v hv.lt)

theorem IsResidue.fsub {v w : Word} {x y : Fp} (hv : IsResidue v x) (hw : IsResidue w y) :
    IsResidue (fsub v w) (x - y) := by
  have h := isResidue_of_toNat_eq (fsub_toNat v w hv.lt hw.lt)
  rwa [Nat.cast_add, cast_P_sub hw.lt, hv.cast, hw.cast, ← sub_eq_add_neg] at h

theorem IsResidue.fmul {v w : Word} {x y : Fp} (hv : IsResidue v x) (hw : IsResidue w y) :
    IsResidue (fmul v w) (x * y) := by
  rw [← hv.cast, ← hw.cast, ← Nat.cast_mul]
  exact isResidue_of_toNat_eq (fmul_toNat v w hv.lt)

/-- R106: for a residue that is not 0 the inverter gives the field's inverse. -/
theorem IsResidue.finv [Fact P.toNat.Prime] {v : Word} {x : Fp} (hv : IsResidue v x) (h0 : x ≠ 0) :
    IsResidue (finv v) x⁻¹ := by
  have hne : v.toNat ≠ 0 := by
    intro h
    rw [← hv.cast, h, Nat.cast_zero] at h0
    exact h0 rfl
  obtain ⟨hlt, hinv⟩ := finv_spec v hne hv.lt
  refine ⟨hlt, eq_inv_of_mul_eq_one_right ?_⟩
  rw [← hv.cast, ← Nat.cast_mul, ← Nat.cast_one, natCast_eq_iff, hinv, Nat.mod_eq_of_lt prime_P.one_lt]

end Sys2Proof.Machine
end

section
/-! SUPPORT. The point arithmetic (41_point.md R140 to R146): Valid pairs encode the points of Mathlib's Weierstrass curve
y² = x³ + 7 over the integers modulo p, and the adder encodes the sum in Mathlib's group of these points. -/

namespace Sys2Proof.Machine

open Sys2Proof.Stated

/-! ### The curve -/

/-- The curve of R15, y² = x³ + 7 over the integers modulo p, with Mathlib's group of points. -/
def curve : WeierstrassCurve.Affine Fp := ⟨0, 0, 0, 0, 7⟩

@[simp] theorem curve_negY (x y : Fp) : curve.negY x y = -y := by
  simp [curve, WeierstrassCurve.Affine.negY]

@[simp] theorem curve_addX (x₁ x₂ l : Fp) : curve.addX x₁ x₂ l = l * l - x₁ - x₂ := by
  simp [curve, WeierstrassCurve.Affine.addX, pow_two]

@[simp] theorem curve_addY (x₁ x₂ y₁ l : Fp) : curve.addY x₁ x₂ y₁ l = l * (x₁ - curve.addX x₁ x₂ l) - y₁ := by
  rw [WeierstrassCurve.Affine.addY, WeierstrassCurve.Affine.negAddY, curve_negY]
  ring

theorem curve_equation_iff (x y : Fp) : curve.Equation x y ↔ y * y = x * x * x + 7 := by
  simp [WeierstrassCurve.Affine.equation_iff, curve, pow_succ]

/-- The discriminant is -27 * 28². -/
theorem curve_discriminant_ne_zero : curve.Δ ≠ 0 := by
  have hΔ : curve.Δ = -((27 * 28 ^ 2 : Nat) : Fp) := by
    simp only [WeierstrassCurve.Δ, WeierstrassCurve.b₂, WeierstrassCurve.b₄, WeierstrassCurve.b₆,
      WeierstrassCurve.b₈, curve]
    push_cast
    ring
  rw [hΔ, neg_ne_zero]
  exact natCast_ne_zero (by decide) (by decide)

/-- Every solution of the curve's equation is a point of Mathlib's group. -/
theorem curve_nonsingular_iff (x y : Fp) : curve.Nonsingular x y ↔ y * y = x * x * x + 7 := by
  rw [← curve_equation_iff]
  exact (WeierstrassCurve.Affine.equation_iff_nonsingular_of_Δ_ne_zero curve_discriminant_ne_zero).symm

/-- (0, 0), the encoding of INF (R22), is no point of the curve. -/
theorem curve_not_nonsingular_zero : ¬ curve.Nonsingular 0 0 := by
  have h7 : (7 : Fp) ≠ 0 := natCast_ne_zero (k := 7) (by decide) (by decide)
  rw [curve_nonsingular_iff, mul_zero, mul_zero, zero_add]
  exact h7.symm

/-- The divisor of the tangent, where the point is not its own inverse (R142). -/
theorem two_mul_ne_zero {y : Fp} (h : y ≠ -y) : 2 * y ≠ 0 := by
  rwa [two_mul, Ne, ← eq_neg_iff_add_eq_zero]

/-! ### Register pairs as points of the curve -/

/-- The pair holds the coordinates of a finite point of the curve (R15, R22). -/
structure HasCoords (q : Point) (u v : Fp) : Prop where
  x : IsResidue q.x u
  y : IsResidue q.y v
  nonsingular : curve.Nonsingular u v

/-- The pair is the encoding of the point of the curve (R15, R22). -/
inductive Denotes : Point → curve.Point → Prop where
  | inf : Denotes INF 0
  | finite {q : Point} {x y : Fp} (h : HasCoords q x y) : Denotes q (.some x y h.nonsingular)

/-- The curve equation on numbers (R15) is the one on residues. -/
theorem nonsingular_iff_mod_eq (x y : Nat) : curve.Nonsingular (x : Fp) (y : Fp) ↔
    y * y % P.toNat = (x * x * x + 7) % P.toNat := by
  rw [curve_nonsingular_iff, ← natCast_eq_iff]
  push_cast
  rfl

/-- The Valid pairs are the encodings of points. -/
theorem onCurve_iff (q : Point) : OnCurve q ↔ ∃ u, Denotes q u := by
  simp only [OnCurve, p_eq_P_toNat, ← nonsingular_iff_mod_eq]
  constructor
  · rintro ⟨hx, hy, rfl | hns⟩
    · exact ⟨0, .inf⟩
    · exact ⟨_, .finite ⟨isResidue_cast hx, isResidue_cast hy, hns⟩⟩
  · rintro ⟨u, hu⟩
    cases hu with
    | inf => exact ⟨P_toNat_pos, P_toNat_pos, .inl rfl⟩
    | finite h =>
      refine ⟨h.x.lt, h.y.lt, .inr ?_⟩
      rw [h.x.cast, h.y.cast]
      exact h.nonsingular

/-- The y coordinate of a Valid pair is canonical. -/
theorem onCurve_y_lt {q : Point} (h : OnCurve q) : q.y.toNat < P.toNat := by
  obtain ⟨-, hy, -⟩ := h
  rwa [← p_eq_P_toNat]

/-- A Valid pair other than INF holds a finite point. -/
theorem hasCoords_of_onCurve {q : Point} (h : OnCurve q) (hne : q ≠ inf) : ∃ x y, HasCoords q x y := by
  obtain ⟨u, hu⟩ := (onCurve_iff q).1 h
  cases hu with
  | inf => exact absurd rfl hne
  | finite h => exact ⟨_, _, h⟩

theorem HasCoords.ne_INF {q : Point} {x y : Fp} (h : HasCoords q x y) : q ≠ INF := by
  rintro rfl
  obtain rfl : x = 0 := (h.x.eq_iff isResidue_zero).1 rfl
  obtain rfl : y = 0 := (h.y.eq_iff isResidue_zero).1 rfl
  exact curve_not_nonsingular_zero h.nonsingular

theorem point_eq_iff (a b : Point) : a = b ↔ a.x = b.x ∧ a.y = b.y := by
  cases a
  cases b
  simp

theorem HasCoords.eq_iff {a b : Point} {x₁ y₁ x₂ y₂ : Fp} (ha : HasCoords a x₁ y₁) (hb : HasCoords b x₂ y₂) :
    a = b ↔ x₁ = x₂ ∧ y₁ = y₂ := by
  rw [point_eq_iff, ha.x.eq_iff hb.x, ha.y.eq_iff hb.y]

/-- A point of the curve has one encoding. -/
theorem Denotes.unique {a b : Point} {u : curve.Point} (ha : Denotes a u) (hb : Denotes b u) : a = b := by
  cases ha with
  | inf => cases hb; rfl
  | finite h =>
    cases hb with
    | finite h' => exact (h.eq_iff h').2 ⟨rfl, rfl⟩

/-- The test of case 2 of R141: the points are inverse to each other. -/
theorem HasCoords.inverse_iff {a b : Point} {x₁ y₁ x₂ y₂ : Fp} (ha : HasCoords a x₁ y₁) (hb : HasCoords b x₂ y₂) :
    a.x = b.x ∧ a.y = fneg b.y ↔ x₁ = x₂ ∧ y₁ = -y₂ := by
  rw [ha.x.eq_iff hb.x, ha.y.eq_iff hb.y.fneg]

/-- The test of case 2, by the sum of the y coordinates. -/
theorem HasCoords.inverse_iff_mod_eq_zero {a b : Point} {x₁ y₁ x₂ y₂ : Fp} (ha : HasCoords a x₁ y₁)
    (hb : HasCoords b x₂ y₂) :
    a.x = b.x ∧ (a.y.toNat + b.y.toNat) % P.toNat = 0 ↔ x₁ = x₂ ∧ y₁ = -y₂ := by
  rw [ha.x.eq_iff hb.x, ← Nat.zero_mod P.toNat, ← natCast_eq_iff, Nat.cast_add, ha.y.cast, hb.y.cast,
    Nat.cast_zero, eq_neg_iff_add_eq_zero]

/-! ### The cases of the adder and of negation (R141, R144) -/

@[simp] theorem INF_padd (a : Point) : padd INF a = a := if_pos rfl

@[simp] theorem padd_INF (a : Point) : padd a INF = a := by
  by_cases h : a = INF
  · rw [h, INF_padd]
  · rw [padd, if_neg h, if_pos rfl]

theorem padd_of_inverse {a b : Point} {x₁ y₁ x₂ y₂ : Fp} (ha : HasCoords a x₁ y₁) (hb : HasCoords b x₂ y₂)
    (h : x₁ = x₂ ∧ y₁ = -y₂) : padd a b = INF := by
  rw [padd, if_neg ha.ne_INF, if_neg hb.ne_INF, if_pos ((ha.inverse_iff hb).2 h)]

theorem padd_of_not_inverse {a b : Point} {x₁ y₁ x₂ y₂ : Fp} (ha : HasCoords a x₁ y₁) (hb : HasCoords b x₂ y₂)
    (h : ¬ (x₁ = x₂ ∧ y₁ = -y₂)) : padd a b = chord (slope a b) a b := by
  rw [padd, if_neg ha.ne_INF, if_neg hb.ne_INF, if_neg (mt (ha.inverse_iff hb).1 h)]

/-- R144: the negated pair is the encoding of the negated point. -/
theorem Denotes.pneg {a : Point} {u : curve.Point} (ha : Denotes a u) : Denotes (pneg a) (-u) := by
  cases ha with
  | inf => exact .inf
  | finite h =>
    refine .finite (q := Machine.pneg a) ⟨h.x, ?_, (WeierstrassCurve.Affine.nonsingular_neg ..).2 h.nonsingular⟩
    rw [curve_negY]
    exact h.y.fneg

/-! ### The group law (R141, R143) -/

section
variable [Fact P.toNat.Prime]

theorem curve_slope_tangent {x y : Fp} (h : y ≠ -y) : curve.slope x x y y = 3 * (x * x) * (2 * y)⁻¹ := by
  rw [← curve_negY x] at h
  rw [WeierstrassCurve.Affine.slope_of_Y_ne rfl h, curve_negY, div_eq_mul_inv, sub_neg_eq_add, ← two_mul]
  simp [curve, pow_two]

theorem curve_slope_chord {x₁ x₂ : Fp} (h : x₁ ≠ x₂) (y₁ y₂ : Fp) :
    curve.slope x₁ x₂ y₁ y₂ = (y₂ - y₁) * (x₂ - x₁)⁻¹ := by
  rw [WeierstrassCurve.Affine.slope_of_X_ne h, ← neg_sub y₂, ← neg_sub x₂, neg_div_neg_eq, div_eq_mul_inv]

section
variable {a b : Point} {x₁ y₁ x₂ y₂ : Fp} (ha : HasCoords a x₁ y₁) (hb : HasCoords b x₂ y₂)
  (hne : ¬ (x₁ = x₂ ∧ y₁ = -y₂))
include ha hb hne

/-- R142: either the points are equal and 2 y is not 0, or their x coordinates differ. -/
theorem tangent_or_chord : (a = b ∧ x₁ = x₂ ∧ y₁ = y₂ ∧ y₁ ≠ -y₁) ∨ (a ≠ b ∧ x₁ ≠ x₂) := by
  by_cases hx : x₁ = x₂
  · have hy : y₁ ≠ -y₂ := fun hy => hne ⟨hx, hy⟩
    have heq : y₁ = y₂ := by
      rw [← curve_negY x₂] at hy
      exact WeierstrassCurve.Affine.Y_eq_of_Y_ne ha.nonsingular.1 hb.nonsingular.1 hx hy
    exact .inl ⟨(ha.eq_iff hb).2 ⟨hx, heq⟩, hx, heq, heq ▸ hy⟩
  · exact .inr ⟨fun hab => hx ((ha.eq_iff hb).1 hab).1, hx⟩

/-- The slope that case 3 of R141 computes is that of Mathlib's law. -/
theorem isResidue_slope : IsResidue (slope a b) (curve.slope x₁ x₂ y₁ y₂) := by
  obtain ⟨rfl, rfl, rfl, hy⟩ | ⟨hab, hx⟩ := tangent_or_chord ha hb hne
  · rw [slope, if_pos rfl, curve_slope_tangent hy]
    exact (isResidue_three.fmul (ha.x.fmul ha.x)).fmul ((isResidue_two.fmul ha.y).finv (two_mul_ne_zero hy))
  · rw [slope, if_neg hab, curve_slope_chord hx]
    exact (hb.y.fsub ha.y).fmul ((hb.x.fsub ha.x).finv (sub_ne_zero.2 hx.symm))

/-- Case 4 of R141: the third point has the coordinates of Mathlib's sum. -/
theorem hasCoords_chord : HasCoords (chord (slope a b) a b) (curve.addX x₁ x₂ (curve.slope x₁ x₂ y₁ y₂))
    (curve.addY x₁ x₂ y₁ (curve.slope x₁ x₂ y₁ y₂)) := by
  have hl := isResidue_slope ha hb hne
  have hx : IsResidue (chord (slope a b) a b).x (curve.addX x₁ x₂ (curve.slope x₁ x₂ y₁ y₂)) := by
    rw [curve_addX]
    exact ((hl.fmul hl).fsub ha.x).fsub hb.x
  refine ⟨hx, ?_, WeierstrassCurve.Affine.nonsingular_add ha.nonsingular hb.nonsingular (by rwa [curve_negY])⟩
  rw [curve_addY]
  exact (hl.fmul (ha.x.fsub hx)).fsub ha.y

end

/-- R141, R143: the adder gives the encoding of the sum. -/
theorem Denotes.padd {a b : Point} {u v : curve.Point} (hu : Denotes a u) (hv : Denotes b v) :
    Denotes (padd a b) (u + v) := by
  cases hu with
  | inf =>
    rw [zero_add]
    exact hv
  | @finite _ x₁ y₁ ha =>
    cases hv with
    | inf =>
      rw [add_zero, padd_INF]
      exact .finite ha
    | @finite _ x₂ y₂ hb =>
      by_cases h : x₁ = x₂ ∧ y₁ = -y₂
      · rw [padd_of_inverse ha hb h, WeierstrassCurve.Affine.Point.add_of_Y_eq h.1 (by rw [curve_negY]; exact h.2)]
        exact .inf
      · rw [padd_of_not_inverse ha hb h, WeierstrassCurve.Affine.Point.add_some (by rwa [curve_negY])]
        exact .finite (hasCoords_chord ha hb h)

end

/-! ### The statements about the adder -/

/-- Settles O34: Valid pairs encode points, and the adder encodes their sum. -/
theorem paddOfValidPointsIsValid : Obligations.PaddOfValidPointsIsValid := by
  have := fact_prime_P
  intro a b ha hb
  obtain ⟨u, hu⟩ := (onCurve_iff a).1 ha
  obtain ⟨v, hv⟩ := (onCurve_iff b).1 hb
  exact (onCurve_iff _).2 ⟨u + v, hu.padd hv⟩

/-- Settles O57: both sides encode the same point, by associativity in Mathlib's group. -/
theorem paddIsAssociative : Obligations.PaddIsAssociative := by
  have := fact_prime_P
  intro a b c ha hb hc
  obtain ⟨u, hu⟩ := (onCurve_iff a).1 ha
  obtain ⟨v, hv⟩ := (onCurve_iff b).1 hb
  obtain ⟨w, hw⟩ := (onCurve_iff c).1 hc
  have hright := hu.padd (hv.padd hw)
  rw [← add_assoc] at hright
  exact ((hu.padd hv).padd hw).unique hright

/-- Settles O35: each law holds of the points that the pairs encode. -/
theorem paddNeutralInverseAndCommutes : Obligations.PaddNeutralInverseAndCommutes := by
  have := fact_prime_P
  intro a b ha hb
  obtain ⟨u, hu⟩ := (onCurve_iff a).1 ha
  obtain ⟨v, hv⟩ := (onCurve_iff b).1 hb
  refine ⟨(hu.padd hv).unique (add_comm v u ▸ hv.padd hu), padd_INF a, INF_padd a, ?_, (onCurve_iff _).2 ⟨-u, hu.pneg⟩⟩
  exact (add_neg_cancel u ▸ hu.padd hu.pneg).unique .inf

/-- Settles O33: the divisor encodes 2 y or the difference of the x coordinates, and that is not 0. -/
theorem paddNeverDividesByZero : Obligations.PaddNeverDividesByZero := by
  intro a b ha hb hane hbne hinv
  obtain ⟨x₁, y₁, ha⟩ := hasCoords_of_onCurve ha hane
  obtain ⟨x₂, y₂, hb⟩ := hasCoords_of_onCurve hb hbne
  have := fact_prime_P
  obtain ⟨rfl, -, -, hy⟩ | ⟨hab, hx⟩ := tangent_or_chord ha hb (mt (ha.inverse_iff hb).2 hinv)
  · exact ⟨fun _ => mt ((isResidue_two.fmul ha.y).eq_iff isResidue_zero).1 (two_mul_ne_zero hy), absurd rfl⟩
  · exact ⟨(absurd · hab), fun _ => mt ((hb.x.fsub ha.x).eq_iff isResidue_zero).1 (sub_ne_zero.2 hx.symm)⟩

/-! ### The scalar multiplier (R145, R146) -/

theorem Denotes.nFold [Fact P.toNat.Prime] {q : Point} {u : curve.Point} (hq : Denotes q u) (k : Nat) :
    Denotes (nFold q k) (k • u) := by
  induction k with
  | zero =>
    rw [zero_nsmul]
    exact .inf
  | succ k ih =>
    rw [succ_nsmul]
    exact ih.padd hq

/-- After each bit the accumulator encodes the multiple of the point by the bits read so far. -/
theorem Denotes.pmul [Fact P.toNat.Prime] {q : Point} {u : curve.Point} (hq : Denotes q u) (k : Word) :
    Denotes (pmul q k) (k.toNat • u) := by
  have hstart : Denotes INF (0 • u) := by
    rw [zero_nsmul]
    exact .inf
  have hend : Denotes (Machine.pmul q k) ((0 * 2 ^ 256 + k.toNat % 2 ^ 256) • u) :=
    ladder_inv _ _ k (fun n acc => Denotes acc (n • u)) (fun n _ h => by rw [two_mul, add_nsmul]; exact h.padd h)
      (fun n _ h => by rw [succ_nsmul]; exact h.padd hq) 256 0 INF hstart
  rwa [Nat.zero_mul, Nat.zero_add, Nat.mod_eq_of_lt k.isLt] at hend

/-- Settles O32: the loop and the k-fold sum encode the same multiple of the point. -/
theorem pmulIsTheFoldSum : Obligations.PmulIsTheFoldSum := by
  have := fact_prime_P
  intro q k hq
  obtain ⟨u, hu⟩ := (onCurve_iff q).1 hq
  exact (hu.pmul k).unique (hu.nFold k.toNat)

/-- The loop of R145 visits the bit positions from the highest down. -/
theorem ladder_eq_foldl {α : Type} (dbl add : α → α) (m : Word) (i : Nat) (acc : α) :
    ladder dbl add m i acc =
      (List.range i).reverse.foldl (fun acc i => if m.getLsbD i then add (dbl acc) else dbl acc) acc := by
  induction i generalizing acc with
  | zero => rfl
  | succ i ih => rw [ladder, ih, List.range_succ, List.reverse_append, List.reverse_singleton, List.foldl_append,
      List.foldl_cons, List.foldl_nil]

theorem pmul_eq_doubleAndAdd (q : Point) (k : Word) : pmul q k = doubleAndAdd q k := ladder_eq_foldl _ _ k 256 INF

/-! ### The adder's equations on numbers (R141) -/

section
variable [Fact P.toNat.Prime] {a b : Point} {x₁ y₁ x₂ y₂ : Fp} (ha : HasCoords a x₁ y₁) (hb : HasCoords b x₂ y₂)
  (hne : ¬ (x₁ = x₂ ∧ y₁ = -y₂))
include ha hb hne

/-- Case 3 of R141: the equation of which the slope is the quotient. -/
theorem slope_solves :
    if a = b then (slope a b).toNat * (2 * a.y.toNat) % P.toNat = 3 * (a.x.toNat * a.x.toNat) % P.toNat
    else (slope a b).toNat * (b.x.toNat + (P.toNat - a.x.toNat)) % P.toNat =
      (b.y.toNat + (P.toNat - a.y.toNat)) % P.toNat := by
  have hl := (isResidue_slope ha hb hne).cast
  obtain ⟨rfl, rfl, rfl, hy⟩ | ⟨hab, hx⟩ := tangent_or_chord ha hb hne
  · rw [if_pos rfl, ← natCast_eq_iff]
    push_cast
    rw [hl, ha.x.cast, ha.y.cast, curve_slope_tangent hy, inv_mul_cancel_right₀ (two_mul_ne_zero hy)]
  · rw [if_neg hab, ← natCast_eq_iff, Nat.cast_mul, Nat.cast_add, Nat.cast_add, cast_P_sub ha.x.lt,
      cast_P_sub ha.y.lt, hl, ha.x.cast, ha.y.cast, hb.x.cast, hb.y.cast, curve_slope_chord hx,
      ← sub_eq_add_neg, ← sub_eq_add_neg, inv_mul_cancel_right₀ (sub_ne_zero.2 hx.symm)]

/-- Case 4 of R141. -/
theorem chord_solves_x : ((chord (slope a b) a b).x.toNat + a.x.toNat + b.x.toNat) % P.toNat =
    (slope a b).toNat * (slope a b).toNat % P.toNat := by
  rw [← natCast_eq_iff]
  push_cast
  rw [(hasCoords_chord ha hb hne).x.cast, (isResidue_slope ha hb hne).cast, ha.x.cast, hb.x.cast, curve_addX]
  ring

/-- Case 4 of R141. -/
theorem chord_solves_y : ((chord (slope a b) a b).y.toNat + a.y.toNat +
    (slope a b).toNat * (chord (slope a b) a b).x.toNat) % P.toNat = (slope a b).toNat * a.x.toNat % P.toNat := by
  have hr := hasCoords_chord ha hb hne
  rw [← natCast_eq_iff]
  push_cast
  rw [hr.x.cast, hr.y.cast, (isResidue_slope ha hb hne).cast, ha.x.cast, ha.y.cast, curve_addY]
  ring

end

/-- R141: the adder's result is the sum by the equations of the law. -/
theorem isSum_padd {a b : Point} (ha : OnCurve a) (hb : OnCurve b) : IsSum a b (padd a b) := by
  have := fact_prime_P
  rw [IsSum, p_eq_P_toNat]
  split
  next hai => rw [hai]; exact INF_padd b
  next hai =>
    split
    next hbi => rw [hbi]; exact padd_INF a
    next hbi =>
      obtain ⟨x₁, y₁, ha⟩ := hasCoords_of_onCurve ha hai
      obtain ⟨x₂, y₂, hb⟩ := hasCoords_of_onCurve hb hbi
      split
      next h => exact padd_of_inverse ha hb ((ha.inverse_iff_mod_eq_zero hb).1 h)
      next h =>
        have hne := mt (ha.inverse_iff_mod_eq_zero hb).2 h
        have hr := hasCoords_chord ha hb hne
        rw [padd_of_not_inverse ha hb hne]
        exact ⟨hr.x.lt, hr.y.lt, (slope a b).toNat, (isResidue_slope ha hb hne).lt, slope_solves ha hb hne,
          chord_solves_x ha hb hne, chord_solves_y ha hb hne⟩

end Sys2Proof.Machine
end

section
/-! SUPPORT. The point and scalar commands (41_point.md R150 to R157): each command's completion from its operands. -/

namespace Sys2Proof.Machine

open Sys2Proof.Stated

/-! ### The operands' check (R140) and what the commands write -/

theorem valid_iff (q : Point) : valid q = true ↔ OnCurve q := by
  simp only [valid, OnCurve, Bool.and_eq_true, Bool.or_eq_true, decide_eq_true_eq, canon_iff, p_eq_P_toNat, and_assoc]
  rfl

/-- R140: the check of a point operand. -/
theorem validOp_iff (s : State) (r : Reg) : s.validOp r = true ↔ OnCurve (pt s r) := valid_iff (pt s r)

theorem validOps_iff (s : State) (r r' : Reg) :
    (s.validOp r && s.validOp r') = true ↔ OnCurve (pt s r) ∧ OnCurve (pt s r') := by
  rw [Bool.and_eq_true, validOp_iff, validOp_iff]

/-- A point command with checked operands: the pair is written, or NOT_ON_CURVE is raised (R92, R203). -/
theorem checked_writePair {c : Bool} {v : Prop} (hc : c = true ↔ v) (rd : Reg) (q : Point) (s : State) :
    (v → (if c then writePair rd q s else raise .notOnCurve s) = .next (okState s (setPair s.regs rd q) s.flags)) ∧
    (¬ v → (if c then writePair rd q s else raise .notOnCurve s) = .next (errState s 0x03#8)) := by
  refine ⟨fun h => ?_, fun h => ?_⟩
  · rw [if_pos (hc.2 h), writePair, completeOk_eq_okState]
  · rw [if_neg (mt hc.1 h)]
    exact raise_eq_errState s (by decide)

/-! ### The point commands on even pairs -/

section
variable {rd ra rb : Reg} (s : State) (hd : Reg.isPair rd = true) (ha : Reg.isPair ra = true)
  (hb : Reg.isPair rb = true)

include ha in
theorem exec_pisinf : exec (.pisinf ra) s = .next (okState s s.regs (s.flags.setZ (isInf (pt s ra)))) :=
  (withPairs_of_even _ _ _ (by simp [ha])).trans (writeFlags_eq _ s)

include ha hb in
theorem exec_pcmp : exec (.pcmp ra rb) s = .next (okState s s.regs
    (s.flags.setCmp (decide (pt s ra = pt s rb)) (pointLt (pt s ra) (pt s rb)))) :=
  (withPairs_of_even _ _ _ (by simp [ha, hb])).trans (writeFlags_eq _ s)

include hd ha

theorem exec_pchk : exec (.pchk rd ra) s =
    if s.validOp ra then .next (okState s (setPair s.regs rd (pt s ra)) (s.flags.setNone false))
    else .next (okState s s.regs (s.flags.setNone true)) := by
  rw [← completeOk_eq_okState, ← completeOk_eq_okState, exec, execPchk, withPairs_of_even _ _ _ (by simp [hd, ha])]
  rfl

theorem exec_pdbl : exec (.pdbl rd ra) s =
    if s.validOp ra then writePair rd (padd (pt s ra) (pt s ra)) s else raise .notOnCurve s := by
  rw [exec, execPdbl, withPairs_of_even _ _ _ (by simp [hd, ha])]
  rfl

theorem exec_pneg : exec (.pneg rd ra) s =
    if s.validOp ra then writePair rd (pneg (pt s ra)) s else raise .notOnCurve s := by
  rw [exec, execPneg, withPairs_of_even _ _ _ (by simp [hd, ha])]
  rfl

theorem exec_pmul (rb : Reg) : exec (.pmul rd ra rb) s =
    if s.validOp ra then writePair rd (pmul (pt s ra) (getReg s.snapshot rb)) s else raise .notOnCurve s := by
  rw [exec, execPmul, withPairs_of_even _ _ _ (by simp [hd, ha])]
  rfl

include hb

theorem exec_padd : exec (.padd rd ra rb) s =
    if s.validOp ra && s.validOp rb then writePair rd (padd (pt s ra) (pt s rb)) s else raise .notOnCurve s := by
  rw [exec, execPadd, withPairs_of_even _ _ _ (by simp [hd, ha, hb])]
  rfl

end

/-- Settles O26, by the two outcomes of the check. -/
theorem pchkValidatesThePair : Obligations.PchkValidatesThePair := by
  simp only [Obligations.PchkValidatesThePair, IsPair, ← isPair_iff]
  intro rd ra s hd ha
  rw [exec_pchk s hd ha]
  refine ⟨decode_wordR _ rfl rfl ⟨(check_pair rd).2 hd, (check_pair ra).2 ha, rfl⟩, fun h => ?_, fun h => ?_⟩
  · exact if_pos ((validOp_iff s ra).2 h)
  · exact if_neg (mt (validOp_iff s ra).1 h)

/-- Settles O28: of Valid operands the adder's result is a sum by the law. -/
theorem paddWritesTheSum : Obligations.PaddWritesTheSum := by
  simp only [Obligations.PaddWritesTheSum, IsPair, ← isPair_iff, ← not_and_or]
  intro rd ra rb s hd ha hb
  rw [exec_padd s hd ha hb]
  obtain ⟨hok, herr⟩ := checked_writePair (validOps_iff s ra rb) rd (padd (pt s ra) (pt s rb)) s
  exact ⟨decode_wordR _ rfl rfl ⟨(check_pair rd).2 hd, (check_pair ra).2 ha, (check_pair rb).2 hb⟩,
    fun h => ⟨_, isSum_padd h.1 h.2, hok h⟩, herr⟩

/-- Settles O29: the double is the adder's result for equal operands. -/
theorem pdblWritesTheDouble : Obligations.PdblWritesTheDouble := by
  simp only [Obligations.PdblWritesTheDouble, IsPair, ← isPair_iff]
  intro rd ra s hd ha
  rw [exec_padd s hd ha ha, Bool.and_self, exec_pdbl s hd ha]
  obtain ⟨hok, herr⟩ := checked_writePair (validOp_iff s ra) rd (padd (pt s ra) (pt s ra)) s
  exact ⟨decode_wordR _ rfl rfl ⟨(check_pair rd).2 hd, (check_pair ra).2 ha, rfl⟩, rfl,
    fun h => ⟨_, isSum_padd h h, hok h⟩, herr⟩

/-- Settles O30, by the negation modulo p of the canonical y. -/
theorem pnegNegatesTheY : Obligations.PnegNegatesTheY := by
  simp only [Obligations.PnegNegatesTheY, IsPair, ← isPair_iff, p_eq_P_toNat]
  intro rd ra s hd ha
  rw [exec_pneg s hd ha]
  obtain ⟨hok, herr⟩ := checked_writePair (validOp_iff s ra) rd (pneg (pt s ra)) s
  refine ⟨decode_wordR _ rfl rfl ⟨(check_pair rd).2 hd, (check_pair ra).2 ha, rfl⟩, fun h => ?_, herr⟩
  rw [← fneg_toNat _ (onCurve_y_lt h), w256_toNat]
  exact hok h

/-- Settles O31: the model's loop is the fold over the bit positions. -/
theorem pmulIsDoubleAndAdd : Obligations.PmulIsDoubleAndAdd := by
  simp only [Obligations.PmulIsDoubleAndAdd, IsPair, ← isPair_iff, ← pmul_eq_doubleAndAdd]
  intro rd ra rb s hd ha
  rw [exec_pmul s hd ha]
  exact ⟨decode_wordR _ rfl rfl ⟨(check_pair rd).2 hd, (check_pair ra).2 ha, rfl⟩,
    checked_writePair (validOp_iff s ra) rd _ s⟩

/-! ### The tests (R151, R157) -/

theorem isInf_iff (q : Point) : isInf q = true ↔ q.x.toNat = 0 ∧ q.y.toNat = 0 := by
  simp [isInf, ← BitVec.toNat_inj]

theorem decide_point_eq_iff (a b : Point) :
    decide (a = b) = true ↔ a.x.toNat = b.x.toNat ∧ a.y.toNat = b.y.toNat := by
  rw [decide_eq_true_eq, point_eq_iff, BitVec.toNat_inj, BitVec.toNat_inj]

theorem pointLt_iff (a b : Point) : pointLt a b = true ↔
    a.x.toNat < b.x.toNat ∨ a.x.toNat = b.x.toNat ∧ a.y.toNat < b.y.toNat := by
  simp [pointLt, BitVec.lt_def, ← BitVec.toNat_inj]

/-- Settles O27: the flags of the raw pairs are those of the numbers. -/
theorem pointTestsWriteTheirFlags : Obligations.PointTestsWriteTheirFlags := by
  simp only [Obligations.PointTestsWriteTheirFlags, IsPair, ← isPair_iff]
  intro ra rb s ha hb
  exact ⟨decode_wordR _ rfl rfl ⟨rfl, (check_pair ra).2 ha, rfl⟩,
    decode_wordR _ rfl rfl ⟨rfl, (check_pair ra).2 ha, (check_pair rb).2 hb⟩,
    ⟨_, isInf_iff _, exec_pisinf s ha⟩, ⟨_, _, decide_point_eq_iff _ _, pointLt_iff _ _, exec_pcmp s ha hb⟩⟩

/-! ### The scalar inverse (R147, R156) -/

theorem n_eq_N_toNat : n = N.toNat := by rw [N_toNat]; rfl

/-- A factor below m is determined by its product modulo m with a number coprime to m. -/
theorem eq_of_mul_mod_eq_of_coprime {m a t u : Nat} (hc : Nat.gcd (a % m) m = 1) (ht : t < m) (hu : u < m)
    (h : a * u % m = a * t % m) : u = t := by
  have hc' : Nat.gcd m a = 1 := by rwa [Nat.gcd_rec]
  exact Nat.ModEq.eq_of_lt_of_lt (Nat.ModEq.cancel_left_of_coprime hc' h) hu ht

theorem sinv_eq_none {v : Word} (h : Nat.gcd (v.toNat % N.toNat) N.toNat ≠ 1) : sinv v = none := if_neg h

/-- R147: of a scalar coprime to n the inverter gives an inverse modulo n. -/
theorem sinv_spec {v : Word} (h : Nat.gcd (v.toNat % N.toNat) N.toNat = 1) :
    ∃ t : Word, sinv v = some t ∧ t.toNat < N.toNat ∧ v.toNat * t.toNat % N.toNat = 1 := by
  obtain ⟨hlt, hinv⟩ := modInv_spec _ N.toNat (Nat.mod_lt _ prime_N.pos) N.isLt h prime_N.one_lt
  refine ⟨_, if_pos h, ?_⟩
  rw [BitVec.toNat_ofNat, Nat.mod_eq_of_lt (hlt.trans N.isLt)]
  exact ⟨hlt, by rwa [Nat.mod_mul_mod] at hinv⟩

/-- Settles O36: the inverter's value is an inverse, hence not 0, and coprimality makes it the only one. -/
theorem sinvInvertsModN : Obligations.SinvInvertsModN := by
  simp only [Obligations.SinvInvertsModN, n_eq_N_toNat]
  intro rd ra s
  refine ⟨decode_wordR _ rfl rfl ⟨rfl, rfl, rfl⟩, fun h => ?_, fun h => ?_⟩
  · obtain ⟨t, ht, hlt, hinv⟩ := sinv_spec (v := s.opReg ra) h
    refine ⟨t.toNat, ⟨Nat.one_le_iff_ne_zero.2 fun hz => ?_, hlt, hinv⟩, fun u _ hu hmul => ?_, ?_⟩
    · simp [hz] at hinv
    · exact eq_of_mul_mod_eq_of_coprime h hlt hu (hmul.trans hinv.symm)
    · simp only [exec, execSinv, ht]
      exact writeReg_eq rfl
  · simp only [exec, execSinv, sinv_eq_none (v := s.opReg ra) h]
    exact raise_eq_errState s (by decide)

end Sys2Proof.Machine
end

section
/-! SUPPORT. The register-transfer commands (42_transfer.md R180 to R183): what their opcodes ask of the other fields of
a legal word, and each command's completion from the value it writes. -/

namespace Sys2Proof.Machine

open Sys2Proof.Stated

/-! ### Words of the transfer opcodes (R87, R95) -/

theorem wordI_eq_formatI (op : BitVec 8) (rd : Reg) (imm16 : BitVec 16) : wordI op rd imm16 = formatI op rd imm16 := by
  apply BitVec.eq_of_toNat_eq
  rw [formatI_toNat, wordI, BitVec.toNat_ofNat]
  omega

theorem opField_eq_of_div_eq {w : BusWord} (op : BitVec 8) (h : w.toNat / 2 ^ 24 = op.toNat) : opField w = op := by
  apply BitVec.eq_of_toNat_eq
  rw [opField_toNat, h, Nat.mod_eq_of_lt op.isLt]

theorem decode_eq_error_of_not_decodes {w : BusWord} (h : ∀ i, ¬ Decodes w i) : ∃ e, decode w = .error e := by
  cases hd : decode w with
  | ok i => exact absurd ((decode_eq_ok_iff w i).1 hd) (h i)
  | error e => exact ⟨e, rfl⟩

/-- NOP's word is the only legal one of its opcode, since its row allows no field but 0. -/
theorem eq_zero_of_decodes_nop {w : BusWord} {i : Instr} (h : Decodes w i) (hop : opField w = 0x00#8) : w = 0#32 := by
  cases h with
  | ldi | ldc => simp at hop
  | row row hrow rd ra rb hallows =>
    rw [opField_formatR] at hop
    have hfind := rowOf_opcode hrow
    rw [hop] at hfind ⊢
    cases hfind
    obtain ⟨hd, ha, hb⟩ := hallows
    rw [(check_zero rd).1 hd, (check_zero ra).1 ha, (check_zero rb).1 hb]
    rfl

/-- A legal format I word has bits 19:16 zero (R83). -/
theorem reserved_of_decodes {w : BusWord} {i : Instr} (h : Decodes w i)
    (hop : opField w = 0x02#8 ∨ opField w = 0x03#8) : w.extractLsb' 16 4 = 0#4 := by
  cases h with
  | ldi | ldc => exact reserved_formatI _ _ _
  | row row hrow =>
    rw [opField_formatR] at hop
    exact absurd hop (not_or.2 (rowR_opcode_ne hrow))

/-- A legal LDC word names a constant of the ROM (R84). -/
theorem index_le_of_decodes_ldc {w : BusWord} {i : Instr} (h : Decodes w i) (hop : opField w = 0x03#8) :
    (imm16Field w).toNat ≤ 6 := by
  cases h with
  | ldi => simp at hop
  | ldc _ _ himm => rwa [imm16Field_formatI]
  | row row hrow =>
    rw [opField_formatR] at hop
    exact absurd hop (rowR_opcode_ne hrow).2

theorem decode_nonzero_nop {w : BusWord} (hop : opField w = 0x00#8) (h : w ≠ 0#32) : ∃ e, decode w = .error e :=
  decode_eq_error_of_not_decodes fun _ hd => h (eq_zero_of_decodes_nop hd hop)

theorem decode_reserved {w : BusWord} (hop : opField w = 0x02#8 ∨ opField w = 0x03#8)
    (h : w.toNat / 2 ^ 16 % 16 ≠ 0) : ∃ e, decode w = .error e := by
  refine decode_eq_error_of_not_decodes fun i hd => h ?_
  have hres := extract_toNat w 16 4
  rw [reserved_of_decodes hd hop] at hres
  exact hres.symm

theorem decode_ldc_of_index_gt (rd : Reg) {imm16 : BitVec 16} (h : 6 < imm16.toNat) :
    ∃ e, decode (formatI 0x03#8 rd imm16) = .error e := by
  refine decode_eq_error_of_not_decodes fun i hd => Nat.not_le.2 h ?_
  have hle := index_le_of_decodes_ldc hd (opField_formatI _ _ _)
  rwa [imm16Field_formatI] at hle

/-! ### The constant ROM (R27) -/

theorem rom_eq_constants (imm16 : BitVec 16) : rom imm16 = constants[imm16.toNat]? := by
  unfold rom
  generalize imm16.toNat = k
  match k with
  | 0 | 1 | 2 | 3 | 4 | 5 | 6 => rfl
  | _ + 7 => rfl

theorem index_le_of_constant {k : Nat} {v : Word} (h : constants[k]? = some v) : k ≤ 6 := by
  obtain ⟨hlt, -⟩ := List.getElem?_eq_some_iff.1 h
  exact Nat.le_of_lt_succ hlt

/-! ### The transfer commands -/

theorem exec_nop (s : State) : exec .nop s = .next (okState s s.regs s.flags) :=
  congrArg Host.Outcome.next (completeOk_eq_okState s s.regs s.flags)

theorem exec_mov (rd ra : Reg) (s : State) :
    exec (.mov rd ra) s = .next (okState s (setReg s.regs rd (getReg s.snapshot ra)) s.flags) :=
  congrArg Host.Outcome.next (completeOk_eq_okState s _ s.flags)

theorem exec_ldi (rd : Reg) (imm16 : BitVec 16) (s : State) :
    exec (.ldi rd imm16) s = .next (okState s (setReg s.regs rd (w256 imm16.toNat)) s.flags) :=
  writeReg_eq (BitVec.toNat_setWidth_of_le (Nat.le_add_left 16 240))

theorem exec_ldc (rd : Reg) {imm16 : BitVec 16} (s : State) {v : Word} (h : constants[imm16.toNat]? = some v) :
    exec (.ldc rd imm16) s = .next (okState s (setReg s.regs rd v) s.flags) := by
  simp only [exec, execLdc, rom_eq_constants, h, writeReg, completeOk_eq_okState]

/-- Settles O14: the legal words of the transfer opcodes, the value each command writes, and the words left over. -/
theorem transferCommandsWriteTheirValue : Obligations.TransferCommandsWriteTheirValue := by
  simp only [Obligations.TransferCommandsWriteTheirValue, wordI_eq_formatI]
  refine ⟨fun rd ra imm16 s => ?_, fun w hop h => ?_, fun w hop h => ?_⟩
  · exact ⟨decodeOfEncodeIsTheCommand .nop rfl, decode_wordR _ rfl rfl ⟨rfl, rfl, rfl⟩,
      decode_formatI_ldi rd imm16, exec_nop s, exec_mov rd ra s, exec_ldi rd imm16 s,
      fun v hv => ⟨decode_formatI_ldc rd (index_le_of_constant hv), exec_ldc rd s hv⟩, decode_ldc_of_index_gt rd⟩
  · exact decode_nonzero_nop (opField_eq_of_div_eq _ hop) h
  · exact decode_reserved (hop.imp (opField_eq_of_div_eq _) (opField_eq_of_div_eq _)) h

end Sys2Proof.Machine
end

section
/-! SUPPORT. Outcomes and errors (60_exceptions.md R200 to R208): what every completion leaves, the codes of each
command, a completion and a host write in one clock cycle, and that no event stops the block. -/

namespace Sys2Proof.Machine

open Sys2Proof.Stated

/-! ### What every completion leaves (R93, R203) -/

/-- `t` follows from `s` by the completion of a command: OK, whatever it writes, or an error, which writes no register
and no flag (R93, R203). -/
structure Completes (s t : State) : Prop where
  busy : t.status.busy = false
  done : t.status.done = true
  pending : t.pending = none
  cmd : t.cmd = s.cmd
  ie : t.ie = s.ie
  ovr : t.status.ovr = s.status.ovr
  events : t.events = s.events
  port : t.port = s.port
  draws : t.draws = s.draws
  outcome : t.errcode = 0x00#8 ∧ t.status.err = s.status.err ∨
    t.errcode ∈ [0x01#8, 0x02#8, 0x03#8, 0x04#8] ∧ t.status.err = true ∧ t.regs = s.regs ∧ t.flags = s.flags

theorem OutcomeCode.code_mem_errors {o : OutcomeCode} (h : o ≠ .ok) : o.code ∈ [0x01#8, 0x02#8, 0x03#8, 0x04#8] := by
  cases o with
  | ok => exact absurd rfl h
  | illegal | noncanonical | notOnCurve | divByZero => decide

theorem completes_fail (s : State) {o : OutcomeCode} (h : o ≠ .ok) : Completes s (s.fail o) :=
  ⟨rfl, rfl, rfl, rfl, rfl, rfl, rfl, rfl, rfl, .inr ⟨o.code_mem_errors h, by simp [h], rfl, rfl⟩⟩

theorem completes_completeOk (s : State) (regs : Regs) (flags : Flags) : Completes s (s.completeOk regs flags) :=
  ⟨rfl, rfl, rfl, rfl, rfl, rfl, rfl, rfl, rfl, .inl ⟨rfl, by simp⟩⟩

theorem CommandEffect.completes {s : State} {r : Result} (h : CommandEffect s r) :
    ∃ t, r = .next t ∧ Completes s t := by
  cases h with
  | error o ho => exact ⟨_, rfl, completes_fail s ho⟩
  | ok regs flags => exact ⟨_, rfl, completes_completeOk s regs flags⟩

/-- irq is CTRL.IE once DONE has risen (R36). -/
theorem Completes.irq {s t : State} (h : Completes s t) : t.irq = s.ie := by
  rw [State.irq, h.done, h.ie, Bool.and_true]

/-- An error sets ERR (R203). -/
theorem Completes.err_of_error {s t : State} (h : Completes s t) (hne : t.errcode ≠ 0x00#8) : t.status.err = true := by
  obtain ⟨h0, -⟩ | ⟨-, herr, -, -⟩ := h.outcome
  · exact absurd h0 hne
  · exact herr

/-- Settles O8: every command raises an error or completes, and either is a completion. -/
theorem everyCommandCompletesPrecisely : Obligations.EveryCommandCompletesPrecisely := by
  intro i s
  obtain ⟨t, ht, h⟩ := (exec_effect i s).completes
  exact ⟨t, ht, h.busy, h.done, h.pending, h.irq, h.cmd, h.ie, h.ovr, h.events, h.port, h.draws, h.outcome⟩

/-! ### The codes of each command (R201, R202) -/

/-- A result's code is one of those listed for the command. -/
def HasOutcomeOf (i : Instr) (r : Result) : Prop := ∀ t, r = .next t → t.errcode ∈ outcomes i

theorem ok_mem_outcomes (i : Instr) : 0x00#8 ∈ outcomes i := by cases i <;> exact List.mem_cons_self

theorem HasOutcomeOf.ok (i : Instr) (s : State) (regs : Regs) (flags : Flags) :
    HasOutcomeOf i (.next (s.completeOk regs flags)) := by
  intro t ht
  cases ht
  exact ok_mem_outcomes i

theorem HasOutcomeOf.raise {i : Instr} {o : OutcomeCode} (s : State) (h : o.code ∈ outcomes i) :
    HasOutcomeOf i (raise o s) := by
  intro t ht
  cases ht
  exact h

theorem HasOutcomeOf.ite {i : Instr} {c : Prop} [Decidable c] {r r' : Result} (h : HasOutcomeOf i r)
    (h' : HasOutcomeOf i r') : HasOutcomeOf i (if c then r else r') := by
  split <;> assumption

theorem HasOutcomeOf.withPairs {i : Instr} {pairs : List Reg} {s : State} {body : State → Result}
    (hp : pairs.all Reg.isPair = true) (h : HasOutcomeOf i (body s)) : HasOutcomeOf i (withPairs pairs s body) := by
  rwa [withPairs_of_even pairs s body hp]

theorem rom_of_index_le {imm16 : BitVec 16} (h : imm16.toNat ≤ 6) : ∃ v, rom imm16 = some v :=
  ⟨_, (rom_eq_constants imm16).trans (List.getElem?_eq_getElem (Nat.lt_succ_of_le h))⟩

theorem rom_of_index_gt {imm16 : BitVec 16} (h : 6 < imm16.toNat) : rom imm16 = none :=
  (rom_eq_constants imm16).trans (List.getElem?_eq_none h)

/-- Each check of a command raises one of the codes listed for it. -/
theorem exec_hasOutcomeOf {i : Instr} (hw : i.wellFormed = true) (s : State) : HasOutcomeOf i (exec i s) := by
  cases i with
  | nop | mov | ldi | fred | fisz | fcmp => exact .ok _ _ _ _
  | fchk => exact .ite (.ok _ _ _ _) (.ok _ _ _ _)
  | ldc rd imm16 =>
    obtain ⟨v, hv⟩ := rom_of_index_le (of_decide_eq_true hw)
    simp only [exec, execLdc, hv]
    exact .ok _ _ _ _
  | fadd | fsub | fneg | fmul | fmuls => exact .ite (.ok _ _ _ _) (.raise s (by simp [outcomes, OutcomeCode.code]))
  | finv | fdiv =>
    exact .ite (.ite (.raise s (by simp [outcomes, OutcomeCode.code])) (.ok _ _ _ _))
      (.raise s (by simp [outcomes, OutcomeCode.code]))
  | sinv rd ra =>
    simp only [exec, execSinv]
    cases sinv (s.opReg ra) with
    | some t => exact .ok _ _ _ _
    | none => exact .raise s (by simp [outcomes, OutcomeCode.code])
  | pchk =>
    simp only [exec, execPchk]
    exact .withPairs (by simpa [Instr.wellFormed] using hw) (.ite (.ok _ _ _ _) (.ok _ _ _ _))
  | pisinf | pcmp =>
    simp only [exec, execPisinf, execPcmp]
    exact .withPairs (by simpa [Instr.wellFormed] using hw) (.ok _ _ _ _)
  | padd | pdbl | pneg | pmul =>
    simp only [exec, execPadd, execPdbl, execPneg, execPmul]
    exact .withPairs (by simpa [Instr.wellFormed, and_assoc] using hw)
      (.ite (.ok _ _ _ _) (.raise s (by simp [outcomes, OutcomeCode.code])))

/-- Only a point field or an LDC index can make a term ill-formed, and its command checks it first (log 5). -/
theorem exec_of_ill_formed {i : Instr} (hw : i.wellFormed = false) (s : State) : exec i s = raise .illegal s := by
  cases i with
  | nop | mov | ldi | fred | fchk | fadd | fsub | fneg | fmul | fmuls | finv | fdiv | fisz | fcmp | sinv => cases hw
  | ldc rd imm16 =>
    have hrom := rom_of_index_gt (Nat.lt_of_not_le (of_decide_eq_false hw))
    simp only [exec, execLdc, hrom]
  | pchk | padd | pdbl | pneg | pmul | pisinf | pcmp =>
    simp only [exec, execPchk, execPadd, execPdbl, execPneg, execPmul, execPisinf, execPcmp]
    exact withPairs_of_odd _ s _ (by simpa [Instr.wellFormed, and_assoc] using hw)

/-- Settles O11: by the checks of a well-formed command, and by the check that an ill-formed term fails. -/
theorem outcomeCodesOfEachCommand : Obligations.OutcomeCodesOfEachCommand := by
  intro i s t ht
  refine ⟨fun hw => exec_hasOutcomeOf hw s t ht, fun hw => ?_⟩
  rw [exec_of_ill_formed hw, raise_eq_errState s (by decide)] at ht
  cases ht
  rfl

/-! ### No event stops the block (R200, R206) -/

theorem engineStep_answers (s : State) : ∃ t, engineStep s = .next t := by
  obtain ⟨-, h⟩ | ⟨-, h⟩ := engineStep_effect s
  · exact ⟨s, h⟩
  · obtain ⟨t, ht, -⟩ := h.completes
    exact ⟨t, ht⟩

/-- The host's part of a clock cycle always answers, whichever order it takes. -/
theorem coincide_answers (a : Access) (hostFirst : Bool) (s : State) : ∃ t, coincide a hostFirst s = .next t := by
  unfold coincide
  split
  · exact engineStep_answers (s.transact a)
  · obtain ⟨u, hu⟩ := engineStep_answers s
    exact ⟨u.transact a, by rw [hu]; rfl⟩

/-- Settles O49, by the kind of the next event. -/
theorem everyStepAnswersANextState : Obligations.EveryStepAnswersANextState := by
  intro s
  cases hev : s.events with
  | nil =>
    rw [step_of_no_event s hev]
    exact engineStep_answers s
  | cons e rest =>
    rw [step_of_event s e rest hev]
    cases e with
    | hardReset => exact ⟨_, rfl⟩
    | host a => exact ⟨_, rfl⟩
    | complete => exact engineStep_answers _
    | coincide a hostFirst => exact coincide_answers a hostFirst _

/-! ### A completion and a host write in one clock cycle (R208) -/

theorem completes_of_engineStep {s t : State} (hp : s.pending ≠ none) (h : engineStep s = .next t) : Completes s t := by
  obtain ⟨hnone, -⟩ | ⟨-, he⟩ := engineStep_cases h
  · exact absurd hnone hp
  · obtain ⟨u, hu, hc⟩ := he.completes
    cases hu
    exact hc

/-- A STATUS write acts before the completion of its clock cycle, which then sets DONE and ERR. -/
theorem step_of_coincide_status {s : State} {v : BusWord} {hostFirst : Bool} {rest : List Event}
    (hev : s.events = .coincide (.write 0x008#12 4 v) hostFirst :: rest) :
    step s = engineStep { State.writeStatus { s with events := rest } v with port := .ack } :=
  step_of_event s _ rest hev

/-- A CTRL or CMD write acts on the completed state. -/
theorem step_of_coincide_last {s u : State} {off : Offset} {v : BusWord} {hostFirst : Bool} {rest : List Event}
    {d : Target} (hev : s.events = .coincide (.write off 4 v) hostFirst :: rest) (ha : off.toNat % 4 = 0)
    (ht : target off = d) (hd : d = .ctrl ∨ d = .cmd) (hu : engineStep { s with events := rest } = .next u) :
    step s = .next { u.writeTarget v d with port := .ack } := by
  have hlegal := legalAccess_of_aligned ha
  have hlast : actsFirst (.write off 4 v) hostFirst = false := by
    obtain rfl | rfl := hd <;> simp [actsFirst, Access.writes, hlegal, ht]
  rw [step_of_event s _ rest hev]
  simp [runEvent, coincide, hlast, hu, State.transact, hlegal, ht]

theorem writeTarget_ctrl_reset (s : State) {v : BusWord} (h : v.getLsbD 1 = true) :
    s.writeTarget v .ctrl = s.resetBlock :=
  if_pos h

/-- Settles O48: a STATUS write leaves the command in flight, which completes with the results of `u`; a CTRL or CMD
write acts on `u`. -/
theorem sameCycleOutcomes : Obligations.SameCycleOutcomes := by
  intro s u f rest v hostFirst hp hu
  have hpending : s.pending ≠ none := by simp [hp]
  have hcu : Completes { s with events := rest } u := completes_of_engineStep hpending hu
  refine ⟨fun hev => ?_, fun hev hsrst => ?_, fun hev => ?_⟩
  · have hsame : SameCommand { s with events := rest }
        { State.writeStatus { s with events := rest } v with port := .ack } := ⟨rfl, rfl, rfl, rfl, rfl⟩
    obtain ⟨t, ht, hregs, hflags, herrcode⟩ := engineStep_of_sameCommand hsame hpending hu
    have hct := completes_of_engineStep (hsame.pending.trans_ne hpending) ht
    exact ⟨t, (step_of_coincide_status hev).trans ht, hct.done, fun hne => hct.err_of_error (herrcode ▸ hne), hct.busy,
      herrcode, hregs, hflags, hct.pending⟩
  · rw [step_of_coincide_last hev rfl (d := .ctrl) rfl (.inl rfl) hu, writeTarget_ctrl_reset u hsrst, State.resetBlock,
      hcu.events, hcu.draws]
  · have hstep := step_of_coincide_last hev rfl (d := .cmd) rfl (.inr rfl) hu
    rw [writeTarget_cmd_idle v hcu.busy] at hstep
    exact ⟨_, hstep, rfl, rfl, rfl, rfl, rfl, rfl, rfl, hcu.ovr⟩

end Sys2Proof.Machine
end

section
/-! SUPPORT. Reset and hazards (70_reset_and_hazards.md): the record beside the loop of the multipliers, a run until the
schedule is exhausted, and what every reset gives. -/

namespace Sys2Proof.Machine

open Sys2Proof.Stated

/-! ### The iterations of the multipliers (R254) -/

/-- With `i` positions left the record grows by `i` doublings and an addition for each set bit among the `i` low ones. -/
theorem ladder_record {α : Type} (dbl add : α → α) (m : Word) (i : Nat) (c : α × Nat × Nat) :
    (ladder (fun c => (dbl c.1, c.2.1 + 1, c.2.2)) (fun c => (add c.1, c.2.1, c.2.2 + 1)) m i c).2 =
      (c.2.1 + i, c.2.2 + (List.range i).countP (fun j => m.getLsbD j)) := by
  induction i generalizing c with
  | zero => rfl
  | succ i ih =>
    rw [ladder, ih, List.range_succ, List.countP_append, List.countP_singleton]
    by_cases hbit : m.getLsbD i = true
    · simp only [if_pos hbit]
      congr 1 <;> omega
    · simp only [if_neg hbit]
      congr 1
      omega

theorem ladderCounted_eq {α : Type} (dbl add : α → α) (m : Word) (acc : α) :
    ladderCounted dbl add m acc = (ladder dbl add m 256 acc, 256, popcount m) := by
  have hcounts : (ladderCounted dbl add m acc).2 = (256, popcount m) := by
    rw [ladderCounted, ladder_record, Nat.zero_add, Nat.zero_add, popcount]
  rw [← ladderCounted_fst, ← hcounts]

/-- Settles O25: fmul and pmul are the loop that the record stands beside. -/
theorem loopPerformsOneAdditionPerSetBit : Obligations.LoopPerformsOneAdditionPerSetBit :=
  ⟨fun _ m => ladderCounted_eq _ _ m _, fun _ m => ladderCounted_eq _ _ m _⟩

/-! ### Every command completes (R253) -/

theorem engineStep_events {s t : State} (h : engineStep s = .next t) : t.events = s.events := by
  by_cases hp : s.pending = none
  · rw [eq_of_engineStep_idle hp h]
  · exact (completes_of_engineStep hp h).events

/-- A step takes one event off the schedule, and none puts one on. -/
theorem step_events {s t : State} (h : step s = .next t) : t.events = s.events.tail := by
  cases step_effect h with
  | reset => rfl
  | host a => rw [State.transact_events, State.popEvent_events]
  | engine _ _ ht => rw [engineStep_events ht, State.popEvent_events]
  | hostThenEngine a _ _ _ _ ht => rw [engineStep_events ht, State.transact_events, State.popEvent_events]
  | engineThenHost a _ u _ _ hu => rw [State.transact_events, engineStep_events hu, State.popEvent_events]

/-- As many steps as there are events exhaust the schedule, and keep the invariant. -/
theorem reaches_no_event {s : State} (hi : s.Inv) :
    ∃ t, Reaches s.events.length s t ∧ t.events = [] ∧ t.Inv := by
  induction hev : s.events generalizing s with
  | nil => exact ⟨s, rfl, hev, hi⟩
  | cons e rest ih =>
    obtain ⟨u, hu⟩ := everyStepAnswersANextState s
    have hrest : u.events = rest := by rw [step_events hu, hev, List.tail_cons]
    obtain ⟨t, hreach, hnil, ht⟩ := ih (everyStepKeepsTheBlockInvariant s u hi hu) hrest
    exact ⟨t, ⟨u, hu, hreach⟩, hnil, ht⟩

/-- The engine's step leaves nothing in flight. -/
theorem engineStep_pending {s t : State} (h : engineStep s = .next t) : t.pending = none := by
  by_cases hp : s.pending = none
  · rw [eq_of_engineStep_idle hp h, hp]
  · exact (completes_of_engineStep hp h).pending

/-- In a state of the invariant BUSY is 0 while nothing is in flight (R30). -/
theorem State.Inv.idle_of_pending_none {s : State} (hi : s.Inv) (hp : s.pending = none) : s.status.busy = false := by
  obtain ⟨hbusy, -, -⟩ := hi
  rw [hbusy, hp, Option.isSome_none]

/-- Settles O55: the events exhaust, and the step after them is the engine's. -/
theorem noCommandStaysInFlight : Obligations.NoCommandStaysInFlight := by
  intro s hi
  obtain ⟨t, hreach, hnil, ht⟩ := reaches_no_event hi
  obtain ⟨u, hu⟩ := everyStepAnswersANextState t
  have hidle : u.pending = none := engineStep_pending ((step_of_no_event t hnil).symm.trans hu)
  have hbusy := (everyStepKeepsTheBlockInvariant t u ht hu).idle_of_pending_none hidle
  exact ⟨u, hreach.snoc hu, hidle, hbusy, by rw [step_events hu, hnil, List.tail_nil]⟩

/-! ### Reset (R240 to R242) -/

/-- Settles O46: every register holds the replicated 0, and the other fields are written out in the reset state. -/
theorem resetValues : Obligations.ResetValues :=
  ⟨getReg_reset, rfl, rfl, rfl, rfl, rfl, rfl, rfl⟩

/-- Settles O47: the reset input is a reset of the block, and so is the write to CTRL with SRST set. -/
theorem everyResetGivesTheResetState : Obligations.EveryResetGivesTheResetState := by
  intro s rest
  refine ⟨fun hev => step_of_event s _ rest hev, fun v hsrst hev => ?_⟩
  rw [step_of_write hev rfl (d := .ctrl) rfl, writeTarget_ctrl_reset _ hsrst, State.resetBlock]

/-- Settles O51: a reset of any state, of the reset state too, meets the invariant. -/
theorem resetMeetsTheBlockInvariant : Obligations.ResetMeetsTheBlockInvariant :=
  State.reset.resetBlock_inv

end Sys2Proof.Machine
end
